-- ==== Sys2Proof/Word.lean ====
section
/-! DEFINITION. The machine's words: the byte, the 12-bit code, the 32-bit register word, and the
three-byte window (rules R7, R8, R21 of spec/). -/

namespace Sys2Proof

/-- A byte: unsigned, 0 to 255 (R7). -/
abbrev Byte := BitVec 8

/-- A code: unsigned, 12 bits, 0 to 4095; it names a dictionary slot (R7, R11). -/
abbrev Code := BitVec 12

/-- A register word of the register block (R6, CSR_WIDTH = 32). -/
abbrev Word := BitVec 32

/-- A byte sequence held by one dictionary slot (R8, R11). -/
abbrev Entry := List Byte

/-- A window: three bytes of the input stream (R11, R21, R22), `b0` the first in stream order. -/
structure Window where
  b0 : Byte
  b1 : Byte
  b2 : Byte
  deriving DecidableEq, Repr

/-- The window `[0, 0, 0]` of rules R43 and R170. -/
def Window.zero : Window := ⟨0, 0, 0⟩

end Sys2Proof
end

