-- ==== Sys2Proof/Config.lean ====
section
/-! DEFINITION. The open parameters of the machine (rule R6) and the free values of the spec, each an opaque
constant with no body, so that no proof can see what it is. The fixed parameters of rule R5 (4096 slots, 256
literals, windows of three bytes, codes of 12 bits) stand as numerals where the rules' pseudocode has them. -/

namespace Sys2Proof.Config

/-- CSR_BASE, the address of the register block: OPEN, the platform's (R6, D12). Log entry 7. -/
opaque csrBase : Nat

/-- By how much MAX_ENTRY_LEN exceeds its least legal value, or `none` for the unbounded store: OPEN
(R6, D7, U5). 3841 is the longest entry of a first generation (R27). Written as an excess so that the rule's
`k ≥ 3841` holds by construction. Log entry 6. -/
opaque entryBoundExcess : Option Nat

/-- MAX_ENTRY_LEN: `none` (unbounded, the reference) or `some m` with `m ≥ 3841` (R6). -/
def maxEntryLen : Option Nat := entryBoundExcess.map (3841 + ·)

/-- Free value: which of the four busy states a STATUS read shows while BUSY = 1 (R174, U7). Applied to
the counter of free values used so far. Log entry 8. -/
opaque busyState : Nat → BitVec 2

/-- Free value: the word another register read returns while BUSY = 1 (R174, U7). Log entry 8. -/
opaque busyWord : Nat → Word

/-- Free value: how many bytes of the entry being emitted the host has accepted when SRST or engine
reset cuts its code step; taken modulo the entry's length plus one (R172, U8, D25). Log entry 9. -/
opaque cutLength : Nat → Nat

end Sys2Proof.Config
end

