-- ==== Sys2Proof/Syntax.lean ====
section
/-! DEFINITION. The instructions: one constructor for each of the 20 rows of spec/opcode_table.json, and
the seven formats of that table. -/

namespace Sys2Proof

/-- What the engine executes. The four code classes are what a code step does with a code (R87); the
read counts are what a read step does with the host's answer (R88), with the answer's three lanes as
operands (R62); the stream formats are what the engine does with a whole window or tail of the stream
(R81, R82, R84, R85); the commands are the writes of CTRL (R90). -/
inductive Instr where
  /-- LIT (R147): a literal code, `c[11:8] = 0`; the operand is `c[7:0]`. -/
  | lit (c : BitVec 8)
  /-- DYNF (R148): a final dynamic entry, `256 ≤ c ≤ size-2`. -/
  | dynf (c : BitVec 12)
  /-- DYNP (R149): the provisional entry, `c = size-1` and `size ≥ 257`. -/
  | dynp (c : BitVec 12)
  /-- BADC (R150): `c ≥ size`, no populated entry. -/
  | badc (c : BitVec 12)
  /-- RD0_EMPTY (R142): READ0 answered with count 0. -/
  | rd0Empty (l0 l1 l2 : BitVec 8)
  /-- RD0_N1 (R142): READ0 answered with count 1. -/
  | rd0N1 (l0 l1 l2 : BitVec 8)
  /-- RD0_N2 (R142): READ0 answered with count 2. -/
  | rd0N2 (l0 l1 l2 : BitVec 8)
  /-- RD0_N3 (R142): READ0 answered with count 3. -/
  | rd0N3 (l0 l1 l2 : BitVec 8)
  /-- RD0_BAD (R142, R202): READ0 answered with a count 4 to 7. -/
  | rd0Bad (k : BitVec 3) (l0 l1 l2 : BitVec 8)
  /-- RD1_STOP1 (R121, R143): READ1 answered with count 0. -/
  | rd1Stop1 (l0 l1 l2 : BitVec 8)
  /-- RD1_STOP2 (R122, R143): READ1 answered with count 1. -/
  | rd1Stop2 (l0 l1 l2 : BitVec 8)
  /-- RD1_CONT2 (R123, R143): READ1 answered with count 2. -/
  | rd1Cont2 (l0 l1 l2 : BitVec 8)
  /-- RD1_CONT3 (R124, R143): READ1 answered with count 3. -/
  | rd1Cont3 (l0 l1 l2 : BitVec 8)
  /-- RD1_BAD (R125, R143, R202): READ1 answered with a count 4 to 7. -/
  | rd1Bad (k : BitVec 3) (l0 l1 l2 : BitVec 8)
  /-- PACK3 (R81, R82): a full window, two codes. -/
  | pack3 (code1 code2 : BitVec 12)
  /-- TAIL2 (R84): the last window of two bytes, one code; `pad` is ignored. -/
  | tail2 (code1 : BitVec 12) (pad : BitVec 4)
  /-- DELIM (R85): the lone last byte, ignored. -/
  | delim (ignored : BitVec 8)
  /-- CMD_NONE (R173): a CTRL write with bits 1:0 = 00. -/
  | cmdNone (ignored : BitVec 30)
  /-- CMD_START (R170, R171): a CTRL write with bits 1:0 = 01. -/
  | cmdStart (ignored : BitVec 30)
  /-- CMD_SRST (R172, R173): a CTRL write with bit 1 = 1; `start` is its bit 0, ignored. -/
  | cmdSrst (ignored : BitVec 30) (start : Bool)
  deriving DecidableEq, Repr

/-- The formats of the opcode table (its column "format"). A CODE12 word is read against the current
`size`, as the guards of its four rows are (R87). -/
inductive Format where
  | code12 (size : BitVec 13)
  | count3Read0
  | count3Read1
  | pack3
  | tail2
  | delim1
  | ctrl32
  deriving DecidableEq, Repr

end Sys2Proof
end

