-- ==== Sys2Proof/WellFormed.lean ====
section
/-! DEFINITION. Which instructions are well formed (their operands are ones the table's rows admit for
some dictionary size), and which a format holds (the table's column "guard"). -/

namespace Sys2Proof

/-- The operands fit the row. A dynamic code is 256 or more; a final one is at most `4096-2`, since
`size ≤ 4096` (R24, R87). The bad counts are 4 to 7 (R88). -/
def Instr.wf : Instr → Bool
  | .lit _ => true
  | .dynf c => decide (256 ≤ c.toNat) && decide (c.toNat ≤ 4094)
  | .dynp c => decide (256 ≤ c.toNat)
  | .badc c => decide (256 ≤ c.toNat)
  | .rd0Empty _ _ _ => true
  | .rd0N1 _ _ _ => true
  | .rd0N2 _ _ _ => true
  | .rd0N3 _ _ _ => true
  | .rd0Bad k _ _ _ => decide (4 ≤ k.toNat)
  | .rd1Stop1 _ _ _ => true
  | .rd1Stop2 _ _ _ => true
  | .rd1Cont2 _ _ _ => true
  | .rd1Cont3 _ _ _ => true
  | .rd1Bad k _ _ _ => decide (4 ≤ k.toNat)
  | .pack3 _ _ => true
  | .tail2 _ _ => true
  | .delim _ => true
  | .cmdNone _ => true
  | .cmdStart _ => true
  | .cmdSrst _ _ => true

/-- The format's guard admits the instruction: the row has this format and, for the code classes, the
condition of rule R87 holds at the format's size. -/
def Instr.inFormat : Instr → Format → Bool
  | .lit _, .code12 _ => true
  | .dynf c, .code12 size => decide (256 ≤ c.toNat) && decide (c.toNat + 2 ≤ size.toNat)
  | .dynp c, .code12 size => decide (256 ≤ c.toNat) && decide (c.toNat + 1 = size.toNat)
  | .badc c, .code12 size => decide (256 ≤ c.toNat) && decide (size.toNat ≤ c.toNat)
  | .rd0Empty _ _ _, .count3Read0 => true
  | .rd0N1 _ _ _, .count3Read0 => true
  | .rd0N2 _ _ _, .count3Read0 => true
  | .rd0N3 _ _ _, .count3Read0 => true
  | .rd0Bad k _ _ _, .count3Read0 => decide (4 ≤ k.toNat)
  | .rd1Stop1 _ _ _, .count3Read1 => true
  | .rd1Stop2 _ _ _, .count3Read1 => true
  | .rd1Cont2 _ _ _, .count3Read1 => true
  | .rd1Cont3 _ _ _, .count3Read1 => true
  | .rd1Bad k _ _ _, .count3Read1 => decide (4 ≤ k.toNat)
  | .pack3 _ _, .pack3 => true
  | .tail2 _ _, .tail2 => true
  | .delim _, .delim1 => true
  | .cmdNone _, .ctrl32 => true
  | .cmdStart _, .ctrl32 => true
  | .cmdSrst _ _, .ctrl32 => true
  | _, _ => false

end Sys2Proof
end

