-- ==== Sys2Proof/Decode.lean ====
section
/-! DEFINITION. The bit fields of the stream and of CTRL (rules R81 to R84, R88, R90), the decoder, total
on any bytes and rejecting by name, and the encoder written from the same tables. -/

namespace Sys2Proof

/-- PACK3, code1 (R81): `code1 = (w0 << 4) | (w1 >> 4)`. -/
def unpackCode1 (w : Window) : Code :=
  (w.b0.setWidth 12 <<< 4) ||| (w.b1.setWidth 12 >>> 4)

/-- PACK3, code2 (R82): `code2 = ((w1 & 0x0F) << 8) | w2`. -/
def unpackCode2 (w : Window) : Code :=
  ((w.b1 &&& 0x0F).setWidth 12 <<< 8) ||| w.b2.setWidth 12

/-- The inverse packing of two codes (R83): `[a >> 4, ((a & 0x0F) << 4) | (b >> 8), b & 0xFF]`. -/
def packPair (a b : Code) : Window :=
  ⟨(a >>> 4).setWidth 8, ((a &&& 0x0F).setWidth 8 <<< 4) ||| (b >>> 8).setWidth 8, (b &&& 0xFF).setWidth 8⟩

/-- The inverse packing of a single last code (R83) with the padding bits of rule R84 in `t1[3:0]`. -/
def packTail (a : Code) (pad : BitVec 4) : List Byte :=
  [(a >>> 4).setWidth 8, ((a &&& 0x0F).setWidth 8 <<< 4) ||| pad.setWidth 8]

/-- The class of a code at a dictionary size (R87). LIT is checked first, as the table's guard says. -/
def classify (c : Code) (size : BitVec 13) : Instr :=
  if c.toNat < 256 then .lit (c.setWidth 8)
  else if size.toNat ≤ c.toNat then .badc c
  else if c.toNat + 1 = size.toNat then .dynp c
  else .dynf c

/-- The READ0 column of rule R88: what a READ0 answer with count `k` and lanes `l0 l1 l2` selects. -/
def read0Instr (k : BitVec 3) (l0 l1 l2 : Byte) : Instr :=
  if k = 0#3 then .rd0Empty l0 l1 l2
  else if k = 1#3 then .rd0N1 l0 l1 l2
  else if k = 2#3 then .rd0N2 l0 l1 l2
  else if k = 3#3 then .rd0N3 l0 l1 l2
  else .rd0Bad k l0 l1 l2

/-- The READ1 column of rule R88. -/
def read1Instr (k : BitVec 3) (l0 l1 l2 : Byte) : Instr :=
  if k = 0#3 then .rd1Stop1 l0 l1 l2
  else if k = 1#3 then .rd1Stop2 l0 l1 l2
  else if k = 2#3 then .rd1Cont2 l0 l1 l2
  else if k = 3#3 then .rd1Cont3 l0 l1 l2
  else .rd1Bad k l0 l1 l2

/-- The command a value written to CTRL is (R90): bit 1 is SRST and wins, bit 0 is START, bits 31:2 are
ignored. -/
def ctrlInstr (v : Word) : Instr :=
  if v.getLsbD 1 then .cmdSrst (v.extractLsb' 2 30) (v.getLsbD 0)
  else if v.getLsbD 0 then .cmdStart (v.extractLsb' 2 30)
  else .cmdNone (v.extractLsb' 2 30)

/-- A 32-bit word from its four byte lanes, lane 0 first: lane j carries bits 8j+7 to 8j (R67, D28). -/
def wordOfLanes (b0 b1 b2 b3 : Byte) : Word := b3 ++ (b2 ++ (b1 ++ b0))

/-- The four byte lanes of a 32-bit word, lane 0 first (R67). -/
def lanesOfWord (v : Word) : List Byte :=
  [v.extractLsb' 0 8, v.extractLsb' 8 8, v.extractLsb' 16 8, v.extractLsb' 24 8]

/-- Why the decoder rejects bytes. The engine never offers it such bytes. -/
inductive DecodeError where
  /-- The format has another number of bytes. -/
  | wrongLength
  /-- A count byte whose bits 7:3 are not 0: the count is 3 bits (R88). -/
  | countTooWide
  /-- A code whose bits 15:12 are not 0: a code is 12 bits (R7). -/
  | codeTooWide
  deriving DecidableEq, Repr

/-- A CODE12 word, low byte first, read at a size. -/
def decodeCode12 (size : BitVec 13) (lo hi : Byte) : Except DecodeError Instr :=
  if 16 ≤ hi.toNat then .error .codeTooWide else .ok (classify ((hi ++ lo).setWidth 12) size)

/-- A count byte followed by the three lanes of the answer. -/
def decodeCount (col : BitVec 3 → Byte → Byte → Byte → Instr) (k l0 l1 l2 : Byte) :
    Except DecodeError Instr :=
  if 8 ≤ k.toNat then .error .countTooWide else .ok (col (k.setWidth 3) l0 l1 l2)

/-- The decoder: the instruction that bytes of a format are, or the reason there is none. -/
def decode : Format → List Byte → Except DecodeError Instr
  | .code12 size, [lo, hi] => decodeCode12 size lo hi
  | .count3Read0, [k, l0, l1, l2] => decodeCount read0Instr k l0 l1 l2
  | .count3Read1, [k, l0, l1, l2] => decodeCount read1Instr k l0 l1 l2
  | .pack3, [w0, w1, w2] => .ok (.pack3 (unpackCode1 ⟨w0, w1, w2⟩) (unpackCode2 ⟨w0, w1, w2⟩))
  | .tail2, [t0, t1] => .ok (.tail2 (unpackCode1 ⟨t0, t1, 0⟩) (t1.setWidth 4))
  | .delim1, [b] => .ok (.delim b)
  | .ctrl32, [b0, b1, b2, b3] => .ok (ctrlInstr (wordOfLanes b0 b1 b2 b3))
  | _, _ => .error .wrongLength

/-- A CODE12 word: the code, zero-extended to two bytes, low byte first. -/
def encodeCode12 (c : Code) : List Byte := [c.setWidth 8, (c >>> 8).setWidth 8]

/-- An answer: the count in a byte, then the lanes. -/
def encodeCount (k : BitVec 3) (l0 l1 l2 : Byte) : List Byte := [k.setWidth 8, l0, l1, l2]

/-- A value written to CTRL, from its fields (R90). -/
def encodeCtrl (ignored : BitVec 30) (srst start : Bool) : List Byte :=
  lanesOfWord (ignored ++ (BitVec.ofBool srst ++ BitVec.ofBool start))

/-- The encoder: the bytes of an instruction, from the tables of 30_encoding.md (R81 to R84, R88, R90). -/
def encode : Instr → List Byte
  | .lit c => encodeCode12 (c.setWidth 12)
  | .dynf c => encodeCode12 c
  | .dynp c => encodeCode12 c
  | .badc c => encodeCode12 c
  | .rd0Empty l0 l1 l2 => encodeCount 0 l0 l1 l2
  | .rd0N1 l0 l1 l2 => encodeCount 1 l0 l1 l2
  | .rd0N2 l0 l1 l2 => encodeCount 2 l0 l1 l2
  | .rd0N3 l0 l1 l2 => encodeCount 3 l0 l1 l2
  | .rd0Bad k l0 l1 l2 => encodeCount k l0 l1 l2
  | .rd1Stop1 l0 l1 l2 => encodeCount 0 l0 l1 l2
  | .rd1Stop2 l0 l1 l2 => encodeCount 1 l0 l1 l2
  | .rd1Cont2 l0 l1 l2 => encodeCount 2 l0 l1 l2
  | .rd1Cont3 l0 l1 l2 => encodeCount 3 l0 l1 l2
  | .rd1Bad k l0 l1 l2 => encodeCount k l0 l1 l2
  | .pack3 a b => [(packPair a b).b0, (packPair a b).b1, (packPair a b).b2]
  | .tail2 a pad => packTail a pad
  | .delim b => [b]
  | .cmdNone ig => encodeCtrl ig false false
  | .cmdStart ig => encodeCtrl ig false true
  | .cmdSrst ig start => encodeCtrl ig true start

/-- The format and bytes of a table word, numbered as spec/opcode_table.json numbers it. Words of the same
width are told apart as log entry 4 says: an 8-bit word below 8 is a count of READ0, another a delimiter
byte; a 16-bit word below 4096 is a code at the reset size 256, another a TAIL2. -/
def tableWord (nbits w : Nat) : Option (Format × List Byte) :=
  if nbits = 3 ∨ nbits = 8 then
    if w < 8 then some (.count3Read0, [BitVec.ofNat 8 w, 0, 0, 0])
    else if nbits = 8 ∧ w < 256 then some (.delim1, [BitVec.ofNat 8 w])
    else none
  else if nbits = 12 ∨ nbits = 16 then
    if w < 4096 then some (.code12 256, encodeCode12 (BitVec.ofNat 12 w))
    else if nbits = 16 ∧ w < 65536 then some (.tail2, [BitVec.ofNat 8 (w / 256), BitVec.ofNat 8 w])
    else none
  else if nbits = 24 then
    if w < 16777216 then
      some (.pack3, [BitVec.ofNat 8 (w / 65536), BitVec.ofNat 8 (w / 256), BitVec.ofNat 8 w])
    else none
  else if nbits = 32 then
    if w < 4294967296 then some (.ctrl32, lanesOfWord (BitVec.ofNat 32 w)) else none
  else none

/-- The instruction the decoder reads from a table word; `none` where there is none (log entry 4). -/
def decodeTableWord (nbits w : Nat) : Option Instr :=
  match tableWord nbits w with
  | none => none
  | some (f, bs) =>
    match decode f bs with
    | .ok i => some i
    | .error _ => none

end Sys2Proof
end

