-- ==== Sys2Proof/Machine/State.lean ====
section
/-! DEFINITION. The state of the machine as plain data: the engine's own state (10_state.md), the host's
side that rule R44 calls inputs of the step relation, the reasons a step can stop, and the state after
reset (R43). -/

namespace Sys2Proof.Machine

/-- The controller state `st` (R20). Value 7 is never held, so it has no constructor. -/
inductive Ctrl where
  | idle
  | read0
  | read1
  | code1
  | code2
  | done
  | error
  deriving DecidableEq, Repr

/-- The dictionary's dynamic slots: pairs of a slot number and its entry, in strictly rising order of the
slots. A slot 256 to 4095 that is not listed is unpopulated; the literal slots are constants (R25, R26).
Log entry 12. -/
abbrev Dict := List (Nat × Entry)

/-- The host's answer to one read: the count `k` and the three byte lanes (R62). -/
structure Answer where
  k  : BitVec 3
  l0 : Byte
  l1 : Byte
  l2 : Byte
  deriving DecidableEq, Repr

/-- The address of a host access: an offset from CSR_BASE, whatever CSR_BASE is (`CSR_BASE + off` in rule
R64), or an address of the platform's bus. -/
inductive BusAddr where
  | csr (off : Nat)
  | bus (addr : Nat)
  deriving DecidableEq, Repr

/-- What the host does in one turn of its own. -/
inductive HostOp where
  /-- `MemRead(a, width)`, width in bytes (R64). -/
  | read (a : BusAddr) (width : Nat)
  /-- `MemWrite(a, width, v)` (R64). -/
  | write (a : BusAddr) (width : Nat) (v : Word)
  /-- The platform asserts engine reset (R230). -/
  | reset
  /-- The host makes a stream ready, changes what it has not yet delivered, or stops answering (`none`)
  (R75, R232). -/
  | offer (stream : Option (List Byte))
  /-- The host says how many more output bytes it accepts: `some k` the next `k` and then none, `none` every
  one (R63, R234). -/
  | accept (room : Option Nat)
  deriving DecidableEq, Repr

/-- Who moves next. Log entries 1 and 3. -/
inductive Turn where
  /-- The engine takes one of its steps READ0, READ1, CODE1, CODE2 (R141). -/
  | engine
  /-- The engine moves by a stream format: a whole window or tail (both code steps of W0 with no host
  access between them), or the lone delimiter byte. -/
  | stream
  /-- The host moves. -/
  | host (op : HostOp)
  deriving DecidableEq, Repr

/-- The state. The first twelve fields are the engine's (R20 to R30), `sent` is the output of a code step
in progress (R141, log entry 11), and the other seven are the host's side and the model's own (log entry 14). -/
structure State where
  /-- `st` (R20). -/
  st : Ctrl
  /-- `W0`, the current window (R21). -/
  W0 : Window
  /-- `W1`, the lookahead window (R22). -/
  W1 : Window
  /-- `n`, the trailing count (R23). -/
  n : BitVec 3
  /-- `size`, the number of populated entries (R24). -/
  size : BitVec 13
  /-- `entry[256..4095]`, the dynamic slots (R25, R27). -/
  dict : Dict
  /-- `errCode` (R29). -/
  errCode : BitVec 3
  /-- `errInfo` (R29). -/
  errInfo : Word
  /-- `CODE_COUNT` (R30). -/
  codeCount : Word
  /-- `IN_COUNT` (R30). -/
  inCount : Word
  /-- `OUT_COUNT` (R30). -/
  outCount : Word
  /-- `DICT_GEN` (R30). -/
  dictGen : Word
  /-- How many bytes of the entry that the code step in progress emits the host has accepted so far (R63, R141,
  R146); 0 where no step is in progress. Log entry 11. -/
  sent : Nat
  /-- The host's answers to the coming reads, the first one first (R62). Used before `stream`. -/
  answers : List Answer
  /-- The bytes a well-behaved host has still to deliver (R233); `none` when no host answers. -/
  stream : Option (List Byte)
  /-- How many more output bytes the host accepts, byte by byte; `none` where it accepts every one (R63, R234). -/
  room : Option Nat
  /-- Every byte the host has accepted, in order (R63). -/
  out : List Byte
  /-- What the host's register reads returned, in order (R64). -/
  readLog : List Word
  /-- Who moves next; when it is empty the engine moves. -/
  turns : List Turn
  /-- How many free values have been used. -/
  draws : Nat
  deriving DecidableEq, Repr

/-- The errors the engine raises (R201 to R203). -/
inductive EngineError where
  | invalidCode
  | invalidFraming
  | capacityFault
  deriving DecidableEq, Repr

/-- Why the machine stops with a fault. Each is a breach of a contract that rules R25, R61 and R109 call
impossible; no state that meets the invariant of Safety.lean reaches one. Log entry 13. -/
inductive Fault where
  /-- Raised by a lookup or a patch of a slot below `size` that holds no entry (R25, R61). Safe: the model
  stops where the spec gives no value. -/
  | unpopulatedSlot (slot : Nat)
  /-- Raised by a patch or an append that needs the first byte of an entry of length 0 (R25). Safe. -/
  | emptyEntry (slot : Nat)
  /-- Raised by DICT_UPDATE with a code that is not below `size` (R109: "it is a fault, not a value"). Safe. -/
  | updateContract (c : Code)
  /-- Raised by an append at a slot above 4095 (R24, R106). Safe. -/
  | noSuchSlot (slot : Nat)
  deriving DecidableEq, Repr

/-- Why there is no meaning. Log entry 13. -/
inductive Refusal where
  /-- Raised by exec's arm of an instruction that has no meaning yet. Safe. -/
  | notModelled (mnemonic : String)
  /-- Raised by an engine instruction run in a controller state that has no such step (R140, R141: the
  guards of the opcode table). The step function never does it. Safe. -/
  | stepNotEnabled
  /-- Raised by a CODE2 step with trailing count 0, where PARSE returns no second code (R121, R145: n is 1
  to 3 there). Safe. -/
  | noSecondCode
  /-- Raised by the step when the fetched bytes are no instruction. The engine offers no such bytes. Safe. -/
  | undecodable (e : DecodeError)
  deriving DecidableEq, Repr

/-- The machine right after engine reset (R43, R230): the engine's fields at the values of rule R43, the
host's side idle (log entry 14). -/
def State.reset : State where
  st := .idle
  W0 := Window.zero
  W1 := Window.zero
  n := 0
  size := 256
  dict := []
  errCode := 0
  errInfo := 0
  codeCount := 0
  inCount := 0
  outCount := 0
  dictGen := 0
  sent := 0
  answers := []
  stream := some []
  room := none
  out := []
  readLog := []
  turns := []
  draws := 0

end Sys2Proof.Machine
end

