-- ==== Sys2Proof/Machine/Flags.lean ====
section
/-! DEFINITION. The flags BUSY, DONE and ERR (R32), the encoding of the error codes (R92), the words of the
register block (R33 to R42), and what a register read returns (R174, R175). -/

namespace Sys2Proof.Machine

/-- The encoding of `st` in STATUS[2:0] (R20, R91). -/
def Ctrl.bits : Ctrl → BitVec 3
  | .idle => 0
  | .read0 => 1
  | .read1 => 2
  | .code1 => 3
  | .code2 => 4
  | .done => 5
  | .error => 6

/-- `BUSY = (st ∈ {READ0, READ1, CODE1, CODE2})` (R32). -/
def Ctrl.busy : Ctrl → Bool
  | .idle => false
  | .read0 => true
  | .read1 => true
  | .code1 => true
  | .code2 => true
  | .done => false
  | .error => false

/-- `DONE = (st = DONE)` (R32). -/
def Ctrl.isDone (c : Ctrl) : Bool := decide (c = .done)

/-- `ERR = (st = ERROR)` (R32). -/
def Ctrl.isErr (c : Ctrl) : Bool := decide (c = .error)

/-- The ERR_CODE of an error (R92). Codes 4 and 5 are reserved for the host and never raised (R204). -/
def EngineError.code : EngineError → BitVec 3
  | .invalidCode => 1
  | .invalidFraming => 2
  | .capacityFault => 3

/-- ERR_INFO of an error (R205): `(zext_13(size) << 16) | zext_16(arg)`. -/
def errInfoWord (size : BitVec 13) (arg : BitVec 16) : Word :=
  (size.setWidth 32 <<< 16) ||| arg.setWidth 32

/-- STATUS with given STATE bits and flags (R35). -/
def statusFields (state : BitVec 3) (busy done err : Bool) (errCode : BitVec 3) : Word :=
  state.setWidth 32 ||| ((BitVec.ofBool busy).setWidth 32 <<< 3) |||
    ((BitVec.ofBool done).setWidth 32 <<< 4) ||| ((BitVec.ofBool err).setWidth 32 <<< 5) |||
    (errCode.setWidth 32 <<< 8)

/-- STATUS built from the current state (R35). -/
def statusWord (s : State) : Word :=
  statusFields s.st.bits s.st.busy s.st.isDone s.st.isErr s.errCode

/-- The word at an offset, built from the current state (R33 to R42): CTRL reads 0, an offset that maps no
register reads 0. -/
def regWord (off : Nat) (s : State) : Word :=
  if off = 0x04 then statusWord s
  else if off = 0x08 then s.size.setWidth 32
  else if off = 0x0C then s.errInfo
  else if off = 0x10 then s.codeCount
  else if off = 0x14 then s.inCount
  else if off = 0x18 then s.outCount
  else if off = 0x1C then s.dictGen
  else 0

/-- Offsets whose word is not exact while BUSY = 1 (R174, U7): STATUS, DICT_SIZE, ERR_INFO and the four
counters. Log entry 8. -/
def inexactWhileBusy (off : Nat) : Bool :=
  decide (off % 4 = 0) && decide (0x04 ≤ off) && decide (off ≤ 0x1C)

/-- What a register read returns while BUSY = 1 (R174), drawing the `d`-th free value: STATUS with BUSY = 1
and any of the four busy states, any value for the others. -/
def busyWordAt (off : Nat) (d : Nat) (errCode : BitVec 3) : Word :=
  if off = 0x04 then
    statusFields ((Config.busyState d).setWidth 3 + 1) true false false errCode
  else Config.busyWord d

/-- What a read of an offset returns (R174, R175). -/
def regRead (off : Nat) (s : State) : Word :=
  if s.st.busy && inexactWhileBusy off then busyWordAt off s.draws s.errCode else regWord off s

/-- The free values used after a read of an offset. -/
def drawsAfterRead (off : Nat) (s : State) : Nat :=
  if s.st.busy && inexactWhileBusy off then s.draws + 1 else s.draws

end Sys2Proof.Machine
end

