-- ==== Sys2Proof/Machine/Operands.lean ====
section
/-! DEFINITION. The operand forms: the unpacker PARSE (41_unpacker.md), the lanes of a read answer (R62,
R89), the host's next answer (R233), and the address of a register access (R64). -/

namespace Sys2Proof.Machine

/-- What PARSE returns (R120). -/
inductive Parsed where
  /-- STOP1 (R121). -/
  | stop1 (code1 : Code)
  /-- STOP2 (R122). -/
  | stop2 (code1 code2 : Code)
  /-- CONTINUE (R123, R124). -/
  | cont (code1 code2 : Code)
  /-- FRAMING_ERROR (R125). -/
  | framingError
  deriving DecidableEq, Repr

/-- PARSE (R120): the codes from the bits of the window, the outcome from the trailing count. -/
def parse (w : Window) (tc : BitVec 3) : Parsed :=
  if tc = 0#3 then .stop1 (unpackCode1 w)
  else if tc = 1#3 then .stop2 (unpackCode1 w) (unpackCode2 w)
  else if tc = 2#3 then .cont (unpackCode1 w) (unpackCode2 w)
  else if tc = 3#3 then .cont (unpackCode1 w) (unpackCode2 w)
  else .framingError

/-- The window a read gives (R62, R89): lane i where `i < k`, else 0. -/
def fillLanes (k : BitVec 3) (l0 l1 l2 : Byte) : Window :=
  ⟨if 0 < k.toNat then l0 else 0, if 1 < k.toNat then l1 else 0, if 2 < k.toNat then l2 else 0⟩

/-- The answer of a well-behaved host with these bytes not yet delivered (R233): `k = min(3, r)` and the
next k bytes in lanes 0 to k-1. -/
def wellBehavedAnswer : List Byte → Answer
  | [] => ⟨0, 0, 0, 0⟩
  | [a] => ⟨1, a, 0, 0⟩
  | [a, b] => ⟨2, a, b, 0⟩
  | a :: b :: c :: _ => ⟨3, a, b, c⟩

/-- The host's answer to the engine's read and the state with that answer taken, or `none` while the host
does not answer (R62: the engine waits). -/
def nextAnswer (s : State) : Option (Answer × State) :=
  match s.answers with
  | a :: rest => some (a, { s with answers := rest })
  | [] =>
    match s.stream with
    | none => none
    | some bytes => some (wellBehavedAnswer bytes, { s with stream := some (bytes.drop 3) })

/-- The offset from CSR_BASE of an address, where it is not below it. -/
def BusAddr.offset : BusAddr → Option Nat
  | .csr off => some off
  | .bus addr => if Config.csrBase ≤ addr then some (addr - Config.csrBase) else none

/-- The offset an access acts on: only a whole aligned 32-bit word acts (R64). -/
def accessOffset (a : BusAddr) (width : Nat) : Option Nat :=
  match a.offset with
  | none => none
  | some off => if width = 4 ∧ off % 4 = 0 then some off else none

end Sys2Proof.Machine
end

