-- ==== Sys2Proof/Machine/Ops.lean ====
section
/-! DEFINITION. The named operations: the dictionary (40_dictionary.md), the ports (R62, R63), the error exit
(R205), ProcessCode and the code steps (R144 to R146), the read steps (R142, R143), the commands' shared
effects (R170, R172, R230) and the host's accesses (43_control.md). -/

namespace Sys2Proof.Machine

/-! ### The dictionary table -/

/-- The entry listed for a slot. -/
def dictFind : Dict → Nat → Option Entry
  | [], _ => none
  | (k, e) :: rest, slot => if k = slot then some e else dictFind rest slot

/-- The table with a slot's entry set, keeping the slots in rising order. -/
def dictPut (slot : Nat) (e : Entry) : Dict → Dict
  | [] => [(slot, e)]
  | (k, x) :: rest =>
    if slot < k then (slot, e) :: (k, x) :: rest
    else if slot = k then (slot, e) :: rest
    else (k, x) :: dictPut slot e rest

/-- Every listed slot is above `low`, and the slots rise strictly. -/
def dictRisesFrom : Nat → Dict → Bool
  | _, [] => true
  | low, (k, _) :: rest => decide (low < k) && dictRisesFrom k rest

/-- The canonical form of the table: dynamic slots only, strictly rising, none above 4095. -/
def dictWf (d : Dict) : Bool :=
  dictRisesFrom 255 d && d.all (fun p => decide (p.1 < 4096))

/-- DictRead (R61): the byte sequence of a slot; a literal slot holds its one byte (R26), a slot that is not
listed is unpopulated. -/
def dictRead (d : Dict) (slot : Nat) : Option Entry :=
  if slot < 256 then some [BitVec.ofNat 8 slot] else dictFind d slot

/-- Writing a slot; a literal slot is never altered (R26). -/
def dictWrite (slot : Nat) (e : Entry) (d : Dict) : Dict :=
  if slot < 256 then d else dictPut slot e d

/-- The entry with its last byte replaced (R104): the length stays. -/
def setLast : Entry → Byte → Entry
  | [], _ => []
  | [_], b => [b]
  | x :: y :: rest, b => x :: setLast (y :: rest) b

/-- DICT_INIT (R100). -/
def dictInit (s : State) : State := { s with dict := [], size := 256 }

/-- DICT_RESET (R101), the dictionary reset. -/
def dictReset (s : State) : State := { s with dict := [], size := 256 }

/-- DICT_UPDATE step 1, the patch (R104): the last byte of slot `size-1` becomes `b`, where that slot is
dynamic. -/
def patchStep (b : Byte) (s : State) : Except Fault State :=
  if s.size.toNat - 1 < 256 then .ok s
  else
    match dictRead s.dict (s.size.toNat - 1) with
    | none => .error (.unpopulatedSlot (s.size.toNat - 1))
    | some [] => .error (.emptyEntry (s.size.toNat - 1))
    | some (x :: rest) =>
      .ok { s with dict := dictWrite (s.size.toNat - 1) (setLast (x :: rest) b) s.dict }

/-- DICT_UPDATE step 2, the full test (R105). -/
def fullStep (s : State) : State :=
  if s.size.toNat = 4096 then { dictReset s with dictGen := s.dictGen + 1 } else s

/-- DICT_UPDATE step 3, the append (R106): slot `size` becomes the given entry and `size` grows by 1. -/
def appendStep (e : Entry) (s : State) : Except Fault State :=
  if 4096 ≤ s.size.toNat then .error (.noSuchSlot s.size.toNat)
  else .ok { s with dict := dictWrite s.size.toNat e s.dict, size := s.size + 1 }

/-- DICT_UPDATE (R103): the snapshot of the operand's entry, then steps 1 to 3 in this order. -/
def dictUpdate (c : Code) (s : State) : Except Fault State :=
  if s.size.toNat ≤ c.toNat then .error (.updateContract c)
  else
    match dictRead s.dict c.toNat with
    | none => .error (.unpopulatedSlot c.toNat)
    | some [] => .error (.emptyEntry c.toNat)
    | some (b :: rest) =>
      match patchStep b s with
      | .error r => .error r
      | .ok t => appendStep ((b :: rest) ++ [b]) (fullStep t)

/-! ### The controller, the error exit and the output port -/

/-- `goto S` (R9). -/
def goto (x : Ctrl) (s : State) : State := { s with st := x }

/-- The error exit `raise E(arg)` (R205). -/
def raiseError (e : EngineError) (arg : BitVec 16) (s : State) : State :=
  { s with errCode := e.code, errInfo := errInfoWord s.size arg, st := .error }

/-- OutWrite (R63) of one byte that the host accepts: the host has the byte and accepts one fewer from now on,
OUT_COUNT counts it (R30, R146) and so does the step in progress. -/
def outWrite (b : Byte) (s : State) : State :=
  { s with out := s.out ++ [b], outCount := s.outCount + 1, sent := s.sent + 1, room := s.room.map (· - 1) }

/-- The emission of bytes in their order (R66, R146), each once the host accepts it (R63): it goes on up to the
first byte that the host does not accept. -/
def emit : Entry → State → State
  | [], s => s
  | b :: rest, s => if s.room = some 0 then s else emit rest (outWrite b s)

/-- The step's bytes are all out: none is in progress. -/
def endTransfer (s : State) : State := { s with sent := 0 }

/-- How many of `len` bytes a host accepts that has room for so many. -/
def acceptedOf (room : Option Nat) (len : Nat) : Nat :=
  match room with
  | none => len
  | some k => min k len

/-! ### The code step -/

/-- The entry an update would append fits the store (R146, R203): its length is at most MAX_ENTRY_LEN. A
length of at most 3841 fits whatever the bound is, since the bound is at least 3841 (R6). -/
def entryFits (len : Nat) : Bool :=
  decide (len + 1 ≤ 3841) || Config.maxEntryLen.all (fun m => decide (len + 1 ≤ m))

/-- How ProcessCode ends. -/
inductive CodeOutcome where
  /-- The code passed: its bytes are out and the dictionary is updated. -/
  | passed (s : State)
  /-- The step goes no further: the error exit was taken, or the host does not accept the next byte and the
  engine waits for it. -/
  | ended (s : State)
  /-- A contract of the dictionary is broken. -/
  | stopped (r : Fault)
  deriving DecidableEq, Repr

/-- The end of ProcessCode, once every byte is out: the update and the count (R146). -/
def finishCode (c : Code) (s : State) : CodeOutcome :=
  match dictUpdate c (endTransfer s) with
  | .error r => .stopped r
  | .ok t => .passed { t with codeCount := t.codeCount + 1 }

/-- After the emission: the end of ProcessCode where the whole entry is out, else the wait for the host (R63). -/
def afterEmission (c : Code) (e : Entry) (s : State) : CodeOutcome :=
  if e.length ≤ s.sent then finishCode c s else .ended s

/-- ProcessCode(c) (R146): check, emit, update. A step that waited for the host goes on with the byte it waited
for (R63, R141). -/
def processCode (c : Code) (s : State) : CodeOutcome :=
  if s.size.toNat ≤ c.toNat then .ended (raiseError .invalidCode (c.setWidth 16) s)
  else
    match dictRead s.dict c.toNat with
    | none => .stopped (.unpopulatedSlot c.toNat)
    | some e =>
      if entryFits e.length then afterEmission c e (emit (e.drop s.sent) s)
      else .ended (raiseError .capacityFault (c.setWidth 16) s)

/-- The rest of a code step, taken when the code has passed. -/
def CodeOutcome.andThen (k : State → State) : CodeOutcome → Host.Outcome State Fault Refusal
  | .passed t => .next (k t)
  | .ended t => .next t
  | .stopped r => .fault r

/-- `W0 <- W1` and `goto READ1`, the end of a CODE2 step that continues (R145). -/
def nextWindow (s : State) : State := { s with W0 := s.W1, st := .read1 }

/-- The step CODE1 (R144) or CODE2 (R145) with the code it found in W0. PARSE comes first, so a trailing
count of 4 to 7 raises InvalidFraming before the code is looked at (R120, R125). -/
def codeStep (c : Code) (s : State) : Host.Outcome State Fault Refusal :=
  match s.st with
  | .code1 =>
    match parse s.W0 s.n with
    | .framingError => .next (raiseError .invalidFraming (s.n.setWidth 16) s)
    | .stop1 _ => (processCode c s).andThen (goto .done)
    | .stop2 _ _ => (processCode c s).andThen (goto .code2)
    | .cont _ _ => (processCode c s).andThen (goto .code2)
  | .code2 =>
    match parse s.W0 s.n with
    | .framingError => .next (raiseError .invalidFraming (s.n.setWidth 16) s)
    | .stop1 _ => .refused .noSecondCode
    | .stop2 _ _ => (processCode c s).andThen (goto .done)
    | .cont _ _ => (processCode c s).andThen nextWindow
  | .idle => .refused .stepNotEnabled
  | .read0 => .refused .stepNotEnabled
  | .read1 => .refused .stepNotEnabled
  | .done => .refused .stepNotEnabled
  | .error => .refused .stepNotEnabled

/-- The code steps of a whole window with no host access between them: CODE1 with the first code and, where
the controller then stands in CODE2, CODE2 with the second (R144, R145, R151). -/
def windowStep (c1 c2 : Code) (s : State) : Host.Outcome State Fault Refusal :=
  match s.st with
  | .code1 =>
    match codeStep c1 s with
    | .next t => if t.st = .code2 then codeStep c2 t else .next t
    | .fault r => .fault r
    | .refused r => .refused r
  | .idle => .refused .stepNotEnabled
  | .read0 => .refused .stepNotEnabled
  | .read1 => .refused .stepNotEnabled
  | .code2 => .refused .stepNotEnabled
  | .done => .refused .stepNotEnabled
  | .error => .refused .stepNotEnabled

/-- The code step of a last window, of which only code1 is decoded (R84, R121): trailing count 0. -/
def tailStep (c1 : Code) (s : State) : Host.Outcome State Fault Refusal :=
  match s.st with
  | .code1 => if s.n = 0#3 then codeStep c1 s else .refused .stepNotEnabled
  | .idle => .refused .stepNotEnabled
  | .read0 => .refused .stepNotEnabled
  | .read1 => .refused .stepNotEnabled
  | .code2 => .refused .stepNotEnabled
  | .done => .refused .stepNotEnabled
  | .error => .refused .stepNotEnabled

/-! ### The read steps -/

/-- `IN_COUNT <- (IN_COUNT + k) mod 2^32` (R142, R143). -/
def countIn (k : BitVec 3) (s : State) : State := { s with inCount := s.inCount + k.setWidth 32 }

/-- The step READ0 (R142) with the host's answer. -/
def read0Step (k : BitVec 3) (l0 l1 l2 : Byte) (s : State) : Host.Outcome State Fault Refusal :=
  match s.st with
  | .read0 =>
    if 4 ≤ k.toNat then .next (raiseError .invalidFraming (k.setWidth 16) s)
    else if k = 0#3 then .next (goto .done (countIn k s))
    else .next (goto .read1 { countIn k s with W0 := fillLanes k l0 l1 l2 })
  | .idle => .refused .stepNotEnabled
  | .read1 => .refused .stepNotEnabled
  | .code1 => .refused .stepNotEnabled
  | .code2 => .refused .stepNotEnabled
  | .done => .refused .stepNotEnabled
  | .error => .refused .stepNotEnabled

/-- The step READ1 (R143) with the host's answer. -/
def read1Step (k : BitVec 3) (l0 l1 l2 : Byte) (s : State) : Host.Outcome State Fault Refusal :=
  match s.st with
  | .read1 =>
    if 4 ≤ k.toNat then .next (raiseError .invalidFraming (k.setWidth 16) s)
    else .next (goto .code1 { countIn k s with W1 := fillLanes k l0 l1 l2, n := k })
  | .idle => .refused .stepNotEnabled
  | .read0 => .refused .stepNotEnabled
  | .code1 => .refused .stepNotEnabled
  | .code2 => .refused .stepNotEnabled
  | .done => .refused .stepNotEnabled
  | .error => .refused .stepNotEnabled

/-! ### Commands, reset and the host's accesses -/

/-- Every piece of the engine's state at its reset value (R43, R230). The host's side is not touched. -/
def engineReset (s : State) : State :=
  { s with
    st := .idle, W0 := Window.zero, W1 := Window.zero, n := 0, size := 256, dict := [],
    errCode := 0, errInfo := 0, codeCount := 0, inCount := 0, outCount := 0, dictGen := 0, sent := 0 }

/-- The entry a code step in progress is emitting: the entry of the step's code, where the code passes the
checks of rule R146. -/
def entryInProgress (s : State) : Option Entry :=
  let ofCode (c : Code) : Option Entry :=
    if s.size.toNat ≤ c.toNat then none
    else
      match dictRead s.dict c.toNat with
      | none => none
      | some e => if entryFits e.length then some e else none
  match s.st, parse s.W0 s.n with
  | .code1, .stop1 c => ofCode c
  | .code1, .stop2 c _ => ofCode c
  | .code1, .cont c _ => ofCode c
  | .code2, .stop2 _ c => ofCode c
  | .code2, .cont _ c => ofCode c
  | _, _ => none

/-- How many more bytes the host had accepted when a code step was cut, of `len` that it would accept, the `d`-th
free value: any number from 0 to `len` (R172, U8). Log entry 9. -/
def cutBytes (d len : Nat) : Nat := Config.cutLength d % (len + 1)

/-- The host has got `k` more bytes of the entry `e` when the step is cut. -/
def cutAfter (k : Nat) (e : Entry) (s : State) : State :=
  { s with out := s.out ++ (e.drop s.sent).take k, room := s.room.map (· - k), draws := s.draws + 1 }

/-- What SRST or engine reset leaves with the host of a code step in progress, beside the bytes it has already:
some next bytes of its entry, as far as the host accepts them (R63, R172, R230, D25). -/
def cutOutput (s : State) : State :=
  match entryInProgress s with
  | none => s
  | some e => cutAfter (cutBytes s.draws (acceptedOf s.room (e.length - s.sent))) e s

/-- SRST, and the platform's engine reset, which has the same effect (R172, R230). -/
def resetEngine (s : State) : State := engineReset (cutOutput s)

/-- The effect of START when the engine is not busy (R170). -/
def startRun (s : State) : State :=
  { dictInit s with
    W0 := Window.zero, W1 := Window.zero, n := 0, errCode := 0, errInfo := 0,
    codeCount := 0, inCount := 0, outCount := 0, dictGen := 0, sent := 0, st := .read0 }

/-- START (R170, R171): ignored while BUSY. -/
def startCommand (s : State) : State := if s.st.busy then s else startRun s

/-- A register read of the host (R64, R174, R175): the word it returns stands at the end of `readLog`. -/
def hostRead (a : BusAddr) (width : Nat) (s : State) : State :=
  match accessOffset a width with
  | none => { s with readLog := s.readLog ++ [0] }
  | some off => { s with readLog := s.readLog ++ [regRead off s], draws := drawsAfterRead off s }

/-- A host turn that is no CTRL write. A write to any other register or address changes nothing (R42, R64,
R176). -/
def hostAccess (op : HostOp) (s : State) : State :=
  match op with
  | .read a width => hostRead a width s
  | .write _ _ _ => s
  | .reset => resetEngine s
  | .offer x => { s with stream := x }
  | .accept x => { s with room := x }

end Sys2Proof.Machine
end

