-- ==== Sys2Proof/Machine/CodeClass.lean ====
section
/-! DEFINITION. The code classes (30_encoding.md R87, 42_decode_loop.md R147 to R150): each is the code step
of rules R144 to R146 with its code. -/

namespace Sys2Proof.Machine

/-- LIT (R147). -/
def execLit (c : BitVec 8) (s : State) : Host.Outcome State Fault Refusal := codeStep (c.setWidth 12) s

/-- DYNF (R148). -/
def execDynf (c : BitVec 12) (s : State) : Host.Outcome State Fault Refusal := codeStep c s

/-- DYNP (R149). -/
def execDynp (c : BitVec 12) (s : State) : Host.Outcome State Fault Refusal := codeStep c s

/-- BADC (R150). -/
def execBadc (c : BitVec 12) (s : State) : Host.Outcome State Fault Refusal := codeStep c s

end Sys2Proof.Machine
end

