-- ==== Sys2Proof/Machine/Command.lean ====
section
/-! DEFINITION. The commands written to CTRL (30_encoding.md R90, 43_control.md R170 to R173). -/

namespace Sys2Proof.Machine

/-- CMD_NONE (R173): does nothing. -/
def execCmdNone (_ignored : BitVec 30) (s : State) : Host.Outcome State Fault Refusal := .next s

/-- CMD_START (R170, R171). -/
def execCmdStart (_ignored : BitVec 30) (s : State) : Host.Outcome State Fault Refusal := .next (startCommand s)

/-- CMD_SRST (R172, R173): the START bit of the same write is ignored. -/
def execCmdSrst (_ignored : BitVec 30) (_start : Bool) (s : State) : Host.Outcome State Fault Refusal :=
  .next (resetEngine s)

end Sys2Proof.Machine
end

