-- ==== Sys2Proof/Machine/ReadCount.lean ====
section
/-! DEFINITION. The read counts (30_encoding.md R88): the steps READ0 (R142) and READ1 (R143) with the count
of the host's answer. -/

namespace Sys2Proof.Machine

/-- RD0_EMPTY (R142): the empty stream. -/
def execRd0Empty (l0 l1 l2 : BitVec 8) (s : State) : Host.Outcome State Fault Refusal := read0Step 0 l0 l1 l2 s

/-- RD0_N1 (R142). -/
def execRd0N1 (l0 l1 l2 : BitVec 8) (s : State) : Host.Outcome State Fault Refusal := read0Step 1 l0 l1 l2 s

/-- RD0_N2 (R142). -/
def execRd0N2 (l0 l1 l2 : BitVec 8) (s : State) : Host.Outcome State Fault Refusal := read0Step 2 l0 l1 l2 s

/-- RD0_N3 (R142). -/
def execRd0N3 (l0 l1 l2 : BitVec 8) (s : State) : Host.Outcome State Fault Refusal := read0Step 3 l0 l1 l2 s

/-- RD0_BAD (R142, R202). -/
def execRd0Bad (k : BitVec 3) (l0 l1 l2 : BitVec 8) (s : State) : Host.Outcome State Fault Refusal :=
  read0Step k l0 l1 l2 s

/-- RD1_STOP1 (R121, R143). -/
def execRd1Stop1 (l0 l1 l2 : BitVec 8) (s : State) : Host.Outcome State Fault Refusal := read1Step 0 l0 l1 l2 s

/-- RD1_STOP2 (R122, R143). -/
def execRd1Stop2 (l0 l1 l2 : BitVec 8) (s : State) : Host.Outcome State Fault Refusal := read1Step 1 l0 l1 l2 s

/-- RD1_CONT2 (R123, R143). -/
def execRd1Cont2 (l0 l1 l2 : BitVec 8) (s : State) : Host.Outcome State Fault Refusal := read1Step 2 l0 l1 l2 s

/-- RD1_CONT3 (R124, R143). -/
def execRd1Cont3 (l0 l1 l2 : BitVec 8) (s : State) : Host.Outcome State Fault Refusal := read1Step 3 l0 l1 l2 s

/-- RD1_BAD (R125, R143, R202). -/
def execRd1Bad (k : BitVec 3) (l0 l1 l2 : BitVec 8) (s : State) : Host.Outcome State Fault Refusal :=
  read1Step k l0 l1 l2 s

end Sys2Proof.Machine
end

