-- ==== Sys2Proof/Machine/StreamFormat.lean ====
section
/-! DEFINITION. The stream formats (30_encoding.md R81, R82, R84, R85): what the engine does with a whole
window, with a two-byte tail, and with the lone last byte. Log entry 3. -/

namespace Sys2Proof.Machine

/-- PACK3 (R81, R82): the window's two codes, each with its whole code step, the second only where the
trailing count lets it be decoded (R121 to R124, R151). -/
def execPack3 (code1 code2 : BitVec 12) (s : State) : Host.Outcome State Fault Refusal :=
  windowStep code1 code2 s

/-- TAIL2 (R84): one code; the padding is ignored. -/
def execTail2 (code1 : BitVec 12) (_pad : BitVec 4) (s : State) : Host.Outcome State Fault Refusal :=
  tailStep code1 s

/-- DELIM (R85): the lone byte arrives in W1 with count 1 and is never parsed. -/
def execDelim (ignored : BitVec 8) (s : State) : Host.Outcome State Fault Refusal :=
  read1Step 1 ignored 0 0 s

end Sys2Proof.Machine
end

