-- ==== Sys2Proof/Machine/Dispatch.lean ====
section
/-! DEFINITION. The meaning of every instruction: one arm for each row of spec/opcode_table.json. -/

namespace Sys2Proof.Machine

def exec (i : Instr) (s : State) : Host.Outcome State Fault Refusal :=
  match i with
  | .lit c => Sys2Proof.Machine.execLit c s
  | .dynf c => Sys2Proof.Machine.execDynf c s
  | .dynp c => Sys2Proof.Machine.execDynp c s
  | .badc c => Sys2Proof.Machine.execBadc c s
  | .rd0Empty l0 l1 l2 => Sys2Proof.Machine.execRd0Empty l0 l1 l2 s
  | .rd0N1 l0 l1 l2 => Sys2Proof.Machine.execRd0N1 l0 l1 l2 s
  | .rd0N2 l0 l1 l2 => Sys2Proof.Machine.execRd0N2 l0 l1 l2 s
  | .rd0N3 l0 l1 l2 => Sys2Proof.Machine.execRd0N3 l0 l1 l2 s
  | .rd0Bad k l0 l1 l2 => Sys2Proof.Machine.execRd0Bad k l0 l1 l2 s
  | .rd1Stop1 l0 l1 l2 => Sys2Proof.Machine.execRd1Stop1 l0 l1 l2 s
  | .rd1Stop2 l0 l1 l2 => Sys2Proof.Machine.execRd1Stop2 l0 l1 l2 s
  | .rd1Cont2 l0 l1 l2 => Sys2Proof.Machine.execRd1Cont2 l0 l1 l2 s
  | .rd1Cont3 l0 l1 l2 => Sys2Proof.Machine.execRd1Cont3 l0 l1 l2 s
  | .rd1Bad k l0 l1 l2 => Sys2Proof.Machine.execRd1Bad k l0 l1 l2 s
  | .pack3 code1 code2 => Sys2Proof.Machine.execPack3 code1 code2 s
  | .tail2 code1 pad => Sys2Proof.Machine.execTail2 code1 pad s
  | .delim ignored => Sys2Proof.Machine.execDelim ignored s
  | .cmdNone ignored => Sys2Proof.Machine.execCmdNone ignored s
  | .cmdStart ignored => Sys2Proof.Machine.execCmdStart ignored s
  | .cmdSrst ignored start => Sys2Proof.Machine.execCmdSrst ignored start s

end Sys2Proof.Machine
end

