-- ==== Sys2Proof/Machine/Fetch.lean ====
section
/-! DEFINITION. What moves next and the word it executes: the engine in its controller state (R140, R141),
the stream formats, the host's turn. Also where a word given from outside is laid (log entry 5). -/

namespace Sys2Proof.Machine

/-- What the next step does. -/
inductive Fetched where
  /-- An instruction's format and bytes, and the state it runs on. -/
  | word (f : Format) (bytes : List Byte) (s : State)
  /-- A host turn that is no CTRL write. -/
  | access (op : HostOp) (s : State)
  /-- Nobody moves: the engine is quiescent or waits (R62, R141, R215). -/
  | wait (s : State)
  deriving DecidableEq, Repr

/-- The bytes of an answer. -/
def Answer.bytes (a : Answer) : List Byte := encodeCount a.k a.l0 a.l1 a.l2

/-- The engine's next step (R140, R141): a read step when the host answers, a code step with the code PARSE
finds in W0. IDLE, DONE and ERROR have none. -/
def engineFetch (s : State) : Fetched :=
  match s.st with
  | .idle => .wait s
  | .read0 =>
    match nextAnswer s with
    | none => .wait s
    | some (a, t) => .word .count3Read0 a.bytes t
  | .read1 =>
    match nextAnswer s with
    | none => .wait s
    | some (a, t) => .word .count3Read1 a.bytes t
  | .code1 => .word (.code12 s.size) (encodeCode12 (unpackCode1 s.W0)) s
  | .code2 => .word (.code12 s.size) (encodeCode12 (unpackCode2 s.W0)) s
  | .done => .wait s
  | .error => .wait s

/-- The engine's next move by a stream format, where one applies: the window in W0 at CODE1 as TAIL2 when
the trailing count is 0 and as PACK3 otherwise, a read of count 1 at READ1 as DELIM; anything else as the
engine's step. Log entry 3. -/
def streamFetch (s : State) : Fetched :=
  match s.st with
  | .code1 =>
    if s.n = 0#3 then .word .tail2 [s.W0.b0, s.W0.b1] s
    else .word .pack3 [s.W0.b0, s.W0.b1, s.W0.b2] s
  | .read1 =>
    match nextAnswer s with
    | none => .wait s
    | some (a, t) => if a.k = 1#3 then .word .delim1 [a.l0] t else .word .count3Read1 a.bytes t
  | .idle => engineFetch s
  | .read0 => engineFetch s
  | .code2 => engineFetch s
  | .done => engineFetch s
  | .error => engineFetch s

/-- The host's turn: a word written to CTRL (offset 0) is a command (R90), anything else an access. -/
def hostFetch (op : HostOp) (s : State) : Fetched :=
  match op with
  | .write a width v =>
    if accessOffset a width = some 0 then .word .ctrl32 (lanesOfWord v) s else .access op s
  | .read _ _ => .access op s
  | .reset => .access op s
  | .offer _ => .access op s
  | .accept _ => .access op s

/-- Who moves next, taken from the schedule; the engine where it is empty. -/
def fetch (s : State) : Fetched :=
  match s.turns with
  | [] => engineFetch s
  | .engine :: rest => engineFetch { s with turns := rest }
  | .stream :: rest => streamFetch { s with turns := rest }
  | .host op :: rest => hostFetch op { s with turns := rest }

/-- The state in which the next step executes exactly the given word (log entry 5). -/
def placeWord (s : State) (f : Format) (bytes : List Byte) : State :=
  match f, bytes with
  | .code12 size, [lo, hi] =>
    { s with
      st := .code1, sent := 0, size := size, dict := [],
      W0 := packPair ((hi ++ lo).setWidth 12) 0, turns := .engine :: s.turns }
  | .count3Read0, [k, l0, l1, l2] =>
    { s with st := .read0, sent := 0, answers := ⟨k.setWidth 3, l0, l1, l2⟩ :: s.answers, turns := .engine :: s.turns }
  | .count3Read1, [k, l0, l1, l2] =>
    { s with st := .read1, sent := 0, answers := ⟨k.setWidth 3, l0, l1, l2⟩ :: s.answers, turns := .engine :: s.turns }
  | .pack3, [w0, w1, w2] =>
    { s with st := .code1, sent := 0, W0 := ⟨w0, w1, w2⟩, n := 3, turns := .stream :: s.turns }
  | .tail2, [t0, t1] =>
    { s with st := .code1, sent := 0, W0 := ⟨t0, t1, 0⟩, n := 0, turns := .stream :: s.turns }
  | .delim1, [b] =>
    { s with st := .read1, sent := 0, answers := ⟨1, b, 0, 0⟩ :: s.answers, turns := .stream :: s.turns }
  | .ctrl32, [b0, b1, b2, b3] =>
    { s with turns := .host (.write (.csr 0) 4 (wordOfLanes b0 b1 b2 b3)) :: s.turns }
  | _, _ => s

end Sys2Proof.Machine
end

