-- ==== Sys2Proof/Machine/Step.lean ====
section
/-! DEFINITION. One step of the machine, and where a table word is laid to be executed next. -/

namespace Sys2Proof.Machine

/-- One step: what moves next is fetched and, where it is an instruction, decoded and executed. -/
def step (s : State) : Host.Outcome State Fault Refusal :=
  match fetch s with
  | .wait t => .next t
  | .access op t => .next (hostAccess op t)
  | .word f bytes t =>
    match decode f bytes with
    | .ok i => exec i t
    | .error e => .refused (.undecodable e)

/-- The state with a table word laid where the next step fetches it (log entry 5). -/
def State.withFetchWord (s : State) (nbits w : Nat) : State :=
  match tableWord nbits w with
  | none => s
  | some (f, bytes) => placeWord s f bytes

end Sys2Proof.Machine
end

