-- ==== Sys2Proof/Safety.lean ====
section
/-! DEFINITION. What counts as a safe state and a run, in the terms the statements use: the invariant of
rules R22 to R30, R37 and R107, the host of rule R233, and the run of rules R155 and R156. -/

namespace Sys2Proof.Safety

open Sys2Proof.Machine

/-- The outcome is a next state: neither a fault nor a refusal. -/
def Completes (o : Host.Outcome State Fault Refusal) : Prop := ∃ t, o = .next t

/-- The run has ended (R155): `st ∈ {DONE, ERROR}`. -/
def Ended (s : State) : Prop := s.st = .done ∨ s.st = .error

/-- An entry whose last byte equals its first byte (R28, the placeholder). -/
def EndsAsItBegins (e : Entry) : Prop := ∃ b, e.head? = some b ∧ e.getLast? = some b

/-- An entry that the store holds: its length is within MAX_ENTRY_LEN (R6). -/
def WithinBound (e : Entry) : Prop := ∀ m, Config.maxEntryLen = some m → e.length ≤ m

/-- The invariant of the machine. -/
structure Inv (s : State) : Prop where
  /-- `256 ≤ size` (R24, R107.1). -/
  size_low : 256 ≤ s.size.toNat
  /-- `size ≤ 4096` (R24, R107.1). -/
  size_high : s.size.toNat ≤ 4096
  /-- Exactly the dynamic slots `256 .. size-1` are listed, in rising order (R25, R107.1). -/
  populated : s.dict.map Prod.fst = List.range' 256 (s.size.toNat - 256)
  /-- Every dynamic entry has length 2 or more (R27, R107.3). -/
  long : ∀ p ∈ s.dict, 2 ≤ p.2.length
  /-- Every dynamic entry is within MAX_ENTRY_LEN (R6, R146). -/
  bounded : ∀ p ∈ s.dict, WithinBound p.2
  /-- The provisional entry ends in its own first byte (R28, R107.4). -/
  provisional : ∀ e, 257 ≤ s.size.toNat → dictRead s.dict (s.size.toNat - 1) = some e → EndsAsItBegins e
  /-- Values 4 to 7 never stay in `n` (R23). -/
  n_legal : s.n.toNat ≤ 3
  /-- CODE2 is entered only with a trailing count of 1 to 3 (R140, R145). -/
  n_second : s.st = .code2 → s.n ≠ 0#3
  /-- Lanes of W1 past the count of its read are 0 (R22). -/
  w1_filled : (s.n.toNat ≤ 0 → s.W1.b0 = 0) ∧ (s.n.toNat ≤ 1 → s.W1.b1 = 0) ∧ (s.n.toNat ≤ 2 → s.W1.b2 = 0)
  /-- Outside ERROR no error is recorded (R29, R37). -/
  no_error : s.st ≠ .error → s.errCode = 0 ∧ s.errInfo = 0
  /-- In ERROR an error of the engine is recorded, with `size` as it was (R205, R37). -/
  error_recorded : s.st = .error → ∃ (e : EngineError) (arg : BitVec 16),
    s.errCode = e.code ∧ s.errInfo = errInfoWord s.size arg
  /-- IDLE holds the reset values of rule R43: only a reset enters it (R140, R154). -/
  idle_is_reset : s.st = .idle → engineReset s = s
  /-- READ0 holds what START left: only START enters it (R140, R170). -/
  read0_is_started : s.st = .read0 → startRun s = s
  /-- Bytes are counted as sent only in a code step that emits its entry and is not done with it (R141). -/
  sending : s.sent ≠ 0 → ∃ e, entryInProgress s = some e ∧ s.sent < e.length

/-- The host is well-behaved with these bytes not yet delivered, accepts every output byte, and makes no
access (R233, R234, R235). -/
structure WellBehaved (s : State) (bytes : List Byte) : Prop where
  answers : s.answers = []
  stream : s.stream = some bytes
  sink : s.room = none
  turns : s.turns = []

/-- `RunsTo s r c t`: from `s` the machine reaches `t` by `r` read steps and `c` code steps (R141, R156). -/
inductive RunsTo : State → Nat → Nat → State → Prop
  | refl (s : State) : RunsTo s 0 0 s
  | read {s t u : State} {r c : Nat} (hs : s.st = .read0 ∨ s.st = .read1) (h : step s = .next t)
      (rest : RunsTo t r c u) : RunsTo s (r + 1) c u
  | code {s t u : State} {r c : Nat} (hs : s.st = .code1 ∨ s.st = .code2) (h : step s = .next t)
      (rest : RunsTo t r c u) : RunsTo s r (c + 1) u

/-- How many codes a stream of `len` bytes holds for the engine (the table of rule R86). -/
def codesOfLength (len : Nat) : Nat :=
  if len = 0 then 0
  else if len = 1 then 1
  else if len % 3 = 2 then 2 * (len / 3) + 1
  else if len % 3 = 0 then 2 * (len / 3) - 1
  else 2 * (len / 3)

/-- The entry that an update with operand entry `e` appends is within MAX_ENTRY_LEN (R146). -/
def UpdateFits (e : Entry) : Prop := ∀ m, Config.maxEntryLen = some m → e.length + 1 ≤ m

/-- The controller is in a code step (R141). -/
def InCodeStep (s : State) : Prop := s.st = .code1 ∨ s.st = .code2

/-- A step that emits the entry `e` still has a byte of it to emit, and the host accepts every byte it has still
to emit (R63). -/
def Accepts (s : State) (e : Entry) : Prop := s.sent < e.length ∧ ∀ k, s.room = some k → e.length - s.sent ≤ k

/-- The host accepts the next `k` bytes of the entry `e` that a step emits, and `e` has more than that still to
emit: the step waits after them (R63, R141). -/
def WaitsAfter (s : State) (e : Entry) (k : Nat) : Prop := s.room = some k ∧ s.sent + k < e.length

/-- What DICT_UPDATE with operand entry `e`, whose first byte is `b`, makes of the dictionary, said through
DictRead of each slot (R103 to R106). -/
structure DictUpdated (s t : State) (e : Entry) (b : Byte) : Prop where
  /-- The literal slots are as before (R26, R101). -/
  literals : ∀ k, k < 256 → dictRead t.dict k = dictRead s.dict k
  /-- Below 4096 the size grows by 1 (R106) and no generation ends. -/
  grown : s.size.toNat < 4096 → t.size = s.size + 1 ∧ t.dictGen = s.dictGen
  /-- Below 4096 slot `size` becomes the operand's entry followed by its first byte (R106). -/
  appended : s.size.toNat < 4096 → dictRead t.dict s.size.toNat = some (e ++ [b])
  /-- Below 4096 a provisional entry gets the operand's first byte as its last byte (R104). -/
  patched : s.size.toNat < 4096 → 257 ≤ s.size.toNat → ∀ p, dictRead s.dict (s.size.toNat - 1) = some p →
    dictRead t.dict (s.size.toNat - 1) = some (p.dropLast ++ [b])
  /-- Below 4096 every other slot is as before (R104, R106). -/
  others : s.size.toNat < 4096 → ∀ k, k ≠ s.size.toNat → k ≠ s.size.toNat - 1 →
    dictRead t.dict k = dictRead s.dict k
  /-- At 4096 the dictionary is reset, one generation ends, and the new entry is slot 256 (R105, R106). -/
  renewed : s.size.toNat = 4096 → t.size = 257 ∧ t.dictGen = s.dictGen + 1 ∧
    dictRead t.dict 256 = some (e ++ [b]) ∧ ∀ k, 257 ≤ k → dictRead t.dict k = none

/-- What a code step does whose code passes and has the entry `e` (R144 to R146): the emission of the bytes it has
not sent yet (all, but for a step that waited), the update, the counters and the transition. Everything not named keeps its value. -/
structure CodePassed (s t : State) (e : Entry) : Prop where
  /-- The entry's bytes are emitted in their order up to the last (R66, R146). -/
  out : t.out = s.out ++ e.drop s.sent
  /-- OUT_COUNT counts them (R30, R146). -/
  outCount : t.outCount = s.outCount + BitVec.ofNat 32 (e.length - s.sent)
  /-- The host accepts so many fewer from now on (R63). -/
  room : t.room = s.room.map (· - (e.length - s.sent))
  /-- No step is in progress. -/
  sent : t.sent = 0
  /-- CODE_COUNT counts the code (R30, R146). -/
  codeCount : t.codeCount = s.codeCount + 1
  /-- The dictionary is updated (R103). -/
  updated : ∃ b, e.head? = some b ∧ DictUpdated s t e b
  /-- CODE1 goes to DONE or CODE2, CODE2 to DONE or READ1 (R140, R144, R145). -/
  st : t.st = if s.st = .code1 then (if s.n = 0#3 then .done else .code2) else (if s.n = 1#3 then .done else .read1)
  /-- `W0 <- W1` where CODE2 continues (R145), and only there. -/
  W0 : t.W0 = if s.st = .code2 ∧ s.n ≠ 1#3 then s.W1 else s.W0
  W1 : t.W1 = s.W1
  n : t.n = s.n
  errCode : t.errCode = s.errCode
  errInfo : t.errInfo = s.errInfo
  inCount : t.inCount = s.inCount
  answers : t.answers = s.answers
  stream : t.stream = s.stream
  readLog : t.readLog = s.readLog
  turns : t.turns = s.turns
  draws : t.draws = s.draws

/-- The transitions of the table of rule R140, but for those of SRST and reset, which go from any state to
IDLE. -/
def transitions : List (Ctrl × Ctrl) :=
  [(.idle, .read0), (.read0, .done), (.read0, .read1), (.read0, .error), (.read1, .code1), (.read1, .error),
   (.code1, .done), (.code1, .code2), (.code1, .error), (.code2, .done), (.code2, .read1), (.code2, .error),
   (.done, .read0), (.error, .read0)]

/-- CODE_COUNT is the number of appends since START: `size - 256` in this generation and 3840 in each earlier
one, modulo 2^32 (R30, R105: the 3841st update of a run makes the first dictionary reset). -/
def CountsAgree (s : State) : Prop :=
  s.codeCount + 256 = s.size.setWidth 32 + 3840 * s.dictGen

/-- The host's turn is a CTRL write of this value (R64, R90). -/
def CtrlWrite (s : State) (v : Word) : Prop :=
  ∃ a rest, accessOffset a 4 = some 0 ∧ s.turns = .host (.write a 4 v) :: rest

end Sys2Proof.Safety
end

