-- ==== Sys2Proof/Certificates/Slice0/Obligations.lean ====
section
/-! DEFINITION. The statements for the provers. Each docstring names the rule of spec/ it formalises. -/

open Sys2Proof Sys2Proof.Machine Sys2Proof.Safety

/-! ### Reset -/

/-- R43, R230: after engine reset every piece of the engine's state has the value of rule R43's table. -/
def Obligations.ResetStateIsTheTableOfRuleR43 : Prop :=
  State.reset.st = .idle ∧ State.reset.W0 = ⟨0, 0, 0⟩ ∧ State.reset.W1 = ⟨0, 0, 0⟩ ∧ State.reset.n = 0#3 ∧
  State.reset.size.toNat = 256 ∧
  (∀ k, k < 256 → dictRead State.reset.dict k = some [BitVec.ofNat 8 k]) ∧
  (∀ k, 256 ≤ k → dictRead State.reset.dict k = none) ∧
  State.reset.errCode = 0 ∧ State.reset.errInfo = 0 ∧
  State.reset.codeCount = 0 ∧ State.reset.inCount = 0 ∧ State.reset.outCount = 0 ∧ State.reset.dictGen = 0 ∧
  State.reset.st.busy = false ∧ State.reset.st.isDone = false ∧ State.reset.st.isErr = false ∧
  regWord 0x00 State.reset = 0

/-- R172, R230: SRST leaves the engine at its reset values from any state, whatever its START bit; the host's
side stays, but that in a code step the host may have got some next bytes `p` of its entry, after the `s.sent`
bytes it has already and no more than it accepts. -/
def Obligations.SrstResetsTheEngineAndKeepsTheHost : Prop :=
  ∀ (ig : BitVec 30) (b : Bool) (s : State), ∃ (p : List Byte) (d : Nat),
    exec (.cmdSrst ig b) s = .next { State.reset with
      answers := s.answers, stream := s.stream, room := s.room.map (· - p.length), out := s.out ++ p,
      readLog := s.readLog, turns := s.turns, draws := d } ∧
    (∀ k, s.room = some k → p.length ≤ k) ∧
    (¬ InCodeStep s → p = []) ∧
    (∀ e, s.st = .code1 → dictRead s.dict (unpackCode1 s.W0).toNat = some e → p <+: e.drop s.sent) ∧
    (∀ e, s.st = .code2 → dictRead s.dict (unpackCode2 s.W0).toNat = some e → p <+: e.drop s.sent) ∧
    (s.st = .code1 → s.size.toNat ≤ (unpackCode1 s.W0).toNat → p = []) ∧
    (s.st = .code2 → s.size.toNat ≤ (unpackCode2 s.W0).toNat → p = [])

/-- R230: the platform's engine reset has the effect of SRST. -/
def Obligations.EngineResetIsSrst : Prop :=
  ∀ (ig : BitVec 30) (b : Bool) (s : State) (rest : List Turn), s.turns = .host .reset :: rest →
    step s = exec (.cmdSrst ig b) { s with turns := rest }

/-! ### The commands -/

/-- R170, R171: START from IDLE, DONE or ERROR does DICT_INIT, clears windows, count, errors and counters and
goes to READ0; while BUSY it changes no state. -/
def Obligations.StartBeginsARunUnlessBusy : Prop :=
  ∀ (ig : BitVec 30) (s : State),
    (s.st = .idle ∨ s.st = .done ∨ s.st = .error →
      exec (.cmdStart ig) s = .next { s with
        st := .read0, size := 256, dict := [], W0 := ⟨0, 0, 0⟩, W1 := ⟨0, 0, 0⟩, n := 0,
        errCode := 0, errInfo := 0, codeCount := 0, inCount := 0, outCount := 0, dictGen := 0, sent := 0 }) ∧
    (s.st = .read0 ∨ s.st = .read1 ∨ s.st = .code1 ∨ s.st = .code2 → exec (.cmdStart ig) s = .next s)

/-- R173: a CTRL write with bits 1:0 = 00 does nothing. -/
def Obligations.CmdNoneChangesNothing : Prop :=
  ∀ (ig : BitVec 30) (s : State), exec (.cmdNone ig) s = .next s

/-- R173, R90: a value written to CTRL with bit 1 set performs SRST only, whatever its other bits; with bits
1:0 = 01 START, whatever its bits 31:2; with bits 1:0 = 00 nothing. -/
def Obligations.CtrlValueSelectsTheCommand : Prop :=
  ∀ (s : State) (v : Word) (rest : List Turn) (a : BusAddr), accessOffset a 4 = some 0 →
    s.turns = .host (.write a 4 v) :: rest →
    (v.getLsbD 1 = true → step s = exec (.cmdSrst 0 false) { s with turns := rest }) ∧
    (v.getLsbD 1 = false → v.getLsbD 0 = true → step s = exec (.cmdStart 0) { s with turns := rest }) ∧
    (v.getLsbD 1 = false → v.getLsbD 0 = false → step s = .next { s with turns := rest })

/-! ### The encoding -/

/-- R81: code1 of a window by its formula and by its fields, and the 24-bit pattern: in stream order a window's
bits are code1's and then code2's. -/
def Obligations.Code1OfAWindowIsRuleR81 : Prop :=
  (∀ w : Window, (unpackCode1 w).toNat = w.b0.toNat * 16 + w.b1.toNat / 16) ∧
  (∀ w : Window, (unpackCode1 w).extractLsb' 4 8 = w.b0 ∧ (unpackCode1 w).extractLsb' 0 4 = w.b1.extractLsb' 4 4) ∧
  (∀ w : Window, (unpackCode1 w ++ unpackCode2 w : BitVec 24) = (w.b0 ++ (w.b1 ++ w.b2) : BitVec 24))

/-- R82: code2 of a window by its formula and by its fields, and the rule's worked example. -/
def Obligations.Code2OfAWindowIsRuleR82 : Prop :=
  (∀ w : Window, (unpackCode2 w).toNat = w.b1.toNat % 16 * 256 + w.b2.toNat) ∧
  (∀ w : Window, (unpackCode2 w).extractLsb' 8 4 = w.b1.extractLsb' 0 4 ∧ (unpackCode2 w).extractLsb' 0 8 = w.b2) ∧
  unpackCode1 ⟨0x12, 0x34, 0x56⟩ = 0x123 ∧ unpackCode2 ⟨0x12, 0x34, 0x56⟩ = 0x456

/-- R83: the inverse packing by its formula, and that unpacking undoes it. -/
def Obligations.PackingIsInvertedByUnpacking : Prop :=
  (∀ a b : Code, packPair a b =
    ⟨BitVec.ofNat 8 (a.toNat / 16), BitVec.ofNat 8 (a.toNat % 16 * 16 + b.toNat / 256), BitVec.ofNat 8 (b.toNat % 256)⟩) ∧
  (∀ a : Code, packTail a 0 = [BitVec.ofNat 8 (a.toNat / 16), BitVec.ofNat 8 (a.toNat % 16 * 16)]) ∧
  (∀ a b : Code, unpackCode1 (packPair a b) = a ∧ unpackCode2 (packPair a b) = b) ∧
  (∀ w : Window, packPair (unpackCode1 w) (unpackCode2 w) = w)

/-- R87: the classes are disjoint and cover every code at every legal size, and a CODE12 word decodes to the
class whose condition holds. -/
def Obligations.CodeClassIsTheConditionOfRuleR87 : Prop :=
  ∀ (c : Code) (size : BitVec 13), 256 ≤ size.toNat → size.toNat ≤ 4096 →
    (c.toNat ≤ 255 → decode (.code12 size) (encodeCode12 c) = .ok (.lit (c.setWidth 8))) ∧
    (256 ≤ c.toNat → c.toNat + 2 ≤ size.toNat → decode (.code12 size) (encodeCode12 c) = .ok (.dynf c)) ∧
    (c.toNat + 1 = size.toNat → 257 ≤ size.toNat → decode (.code12 size) (encodeCode12 c) = .ok (.dynp c)) ∧
    (size.toNat ≤ c.toNat → decode (.code12 size) (encodeCode12 c) = .ok (.badc c))

/-- Words of every family decode to what they stand for. The bytes of PACK3, TAIL2, DELIM and CTRL words are those
of R81, R82, R84, R85, R90 and R67. That a CODE12 word is two bytes, low byte first, and that an answer is a count
byte followed by three lanes is the model's choice (log entry 20): R87 and R88 give only the code's and the count's
bits. -/
def Obligations.WrittenOutWordsDecode : Prop :=
  decode .pack3 [0x04, 0x10, 0x42] = .ok (.pack3 0x041 0x042) ∧
  decode .tail2 [0x02, 0x1F] = .ok (.tail2 0x021 0xF) ∧
  decode .delim1 [0x0A] = .ok (.delim 0x0A) ∧
  decode .count3Read0 [0x02, 0x04, 0x10, 0x00] = .ok (.rd0N2 0x04 0x10 0x00) ∧
  decode .count3Read1 [0x07, 0x00, 0x00, 0x00] = .ok (.rd1Bad 7 0x00 0x00 0x00) ∧
  decode (.code12 258) [0x00, 0x01] = .ok (.dynf 0x100) ∧
  decode (.code12 257) [0x00, 0x01] = .ok (.dynp 0x100) ∧
  decode (.code12 256) [0x00, 0x01] = .ok (.badc 0x100) ∧
  decode (.code12 256) [0x41, 0x00] = .ok (.lit 0x41) ∧
  decode .ctrl32 [0xFD, 0xFF, 0xFF, 0xFF] = .ok (.cmdStart 0x3FFFFFFF) ∧
  decode .ctrl32 [0x03, 0x00, 0x00, 0x00] = .ok (.cmdSrst 0 true)

/-- Decode and encode agree: every instruction that a format's guard admits is the decoding of its encoding, with
every operand at every value. -/
def Obligations.DecodeOfEncodeIsTheInstruction : Prop :=
  ∀ (i : Instr) (f : Format), i.wf = true → i.inFormat f = true → decode f (encode i) = .ok i

/-- What the decoder answers is well formed, admitted by the format's guard at a legal size, and encodes to the
same bytes: no bit of a word is dropped. -/
def Obligations.EncodeOfDecodeIsTheWord : Prop :=
  ∀ (f : Format) (bs : List Byte) (i : Instr), decode f bs = .ok i →
    (∀ size, f = .code12 size → 256 ≤ size.toNat ∧ size.toNat ≤ 4096) →
    i.wf = true ∧ i.inFormat f = true ∧ encode i = bs

/-! ### The unpacker -/

/-- R120: PARSE at every trailing count, its two codes by their formulas. -/
def Obligations.ParseOutcomeByTrailingCount : Prop :=
  ∀ (w : Window) (tc : BitVec 3), ∃ a b : Code,
    a.toNat = w.b0.toNat * 16 + w.b1.toNat / 16 ∧ b.toNat = w.b1.toNat % 16 * 256 + w.b2.toNat ∧
    (tc.toNat = 0 → parse w tc = .stop1 a) ∧ (tc.toNat = 1 → parse w tc = .stop2 a b) ∧
    (tc.toNat = 2 → parse w tc = .cont a b) ∧ (tc.toNat = 3 → parse w tc = .cont a b) ∧
    (4 ≤ tc.toNat → parse w tc = .framingError)

/-! ### The read steps -/

/-- R142: READ0 at every count. Lanes past the count are 0 in W0 (R89); nothing else changes. -/
def Obligations.Read0AtEveryCount : Prop :=
  ∀ (l0 l1 l2 : Byte) (s : State), s.st = .read0 →
    exec (.rd0Empty l0 l1 l2) s = .next { s with st := .done } ∧
    exec (.rd0N1 l0 l1 l2) s = .next { s with st := .read1, W0 := ⟨l0, 0, 0⟩, inCount := s.inCount + 1 } ∧
    exec (.rd0N2 l0 l1 l2) s = .next { s with st := .read1, W0 := ⟨l0, l1, 0⟩, inCount := s.inCount + 2 } ∧
    exec (.rd0N3 l0 l1 l2) s = .next { s with st := .read1, W0 := ⟨l0, l1, l2⟩, inCount := s.inCount + 3 } ∧
    ∀ k : BitVec 3, 4 ≤ k.toNat → exec (.rd0Bad k l0 l1 l2) s =
      .next { s with st := .error, errCode := 2, errInfo := BitVec.ofNat 32 (s.size.toNat * 65536 + k.toNat) }

/-- R143: READ1 at every count. Lanes past the count are 0 in W1 (R89); nothing else changes. -/
def Obligations.Read1AtEveryCount : Prop :=
  ∀ (l0 l1 l2 : Byte) (s : State), s.st = .read1 →
    exec (.rd1Stop1 l0 l1 l2) s = .next { s with st := .code1, W1 := ⟨0, 0, 0⟩, n := 0 } ∧
    exec (.rd1Stop2 l0 l1 l2) s =
      .next { s with st := .code1, W1 := ⟨l0, 0, 0⟩, n := 1, inCount := s.inCount + 1 } ∧
    exec (.rd1Cont2 l0 l1 l2) s =
      .next { s with st := .code1, W1 := ⟨l0, l1, 0⟩, n := 2, inCount := s.inCount + 2 } ∧
    exec (.rd1Cont3 l0 l1 l2) s =
      .next { s with st := .code1, W1 := ⟨l0, l1, l2⟩, n := 3, inCount := s.inCount + 3 } ∧
    ∀ k : BitVec 3, 4 ≤ k.toNat → exec (.rd1Bad k l0 l1 l2) s =
      .next { s with st := .error, errCode := 2, errInfo := BitVec.ofNat 32 (s.size.toNat * 65536 + k.toNat) }

/-- R233, R62: a well-behaved host with r bytes not yet delivered answers `min(3, r)` and those bytes, in order,
and keeps the rest; with no answer the engine waits. -/
def Obligations.WellBehavedHostAnswersItsNextBytes : Prop :=
  ∀ (s : State) (bytes : List Byte), s.turns = [] → s.st = .read0 ∨ s.st = .read1 → s.answers = [] →
    (s.stream = some bytes → ∃ a t, nextAnswer s = some (a, t) ∧ t = { s with stream := some (bytes.drop 3) } ∧
      a.k.toNat = min 3 bytes.length ∧
      (∀ b, bytes[0]? = some b → a.l0 = b) ∧ (∀ b, bytes[1]? = some b → a.l1 = b) ∧
      (∀ b, bytes[2]? = some b → a.l2 = b) ∧
      (s.st = .read0 → step s = exec (read0Instr a.k a.l0 a.l1 a.l2) t) ∧
      (s.st = .read1 → step s = exec (read1Instr a.k a.l0 a.l1 a.l2) t)) ∧
    (s.stream = none → step s = .next s)

/-! ### The code classes -/

/-- R147: a literal code emits its one byte and is always passed; the update appends `[c, c]`. -/
def Obligations.LitEmitsItsByte : Prop :=
  ∀ (c : BitVec 8) (s : State), Inv s → InCodeStep s → Accepts s [c] →
    ∃ t, exec (.lit c) s = .next t ∧ CodePassed s t [c] ∧ t.out = s.out ++ [c]

/-- R148: a final dynamic code emits its entry (what it has not sent yet of it) and keeps it (below size 4096). -/
def Obligations.DynfEmitsItsFinalEntry : Prop :=
  ∀ (c : Code) (e : Entry) (s : State), Inv s → InCodeStep s → Accepts s e →
    256 ≤ c.toNat → c.toNat + 2 ≤ s.size.toNat → dictRead s.dict c.toNat = some e → UpdateFits e →
    ∃ t, exec (.dynf c) s = .next t ∧ CodePassed s t e ∧
      (s.size.toNat < 4096 → dictRead t.dict c.toNat = some e)

/-- R149, R108: the provisional code emits its entry with the placeholder (what it has not sent yet of it), and the
patch writes what the slot already holds, so the bytes emitted are the entry's final value. -/
def Obligations.DynpEmitsTheProvisionalEntry : Prop :=
  ∀ (c : Code) (e : Entry) (s : State), Inv s → InCodeStep s → Accepts s e →
    c.toNat + 1 = s.size.toNat → 257 ≤ s.size.toNat → dictRead s.dict c.toNat = some e → UpdateFits e →
    ∃ t, exec (.dynp c) s = .next t ∧ CodePassed s t e ∧
      (s.size.toNat < 4096 → dictRead t.dict c.toNat = some e)

/-- R150, R201: a code that names no entry raises InvalidCode with the code and the size; nothing else changes. -/
def Obligations.BadcRaisesInvalidCode : Prop :=
  ∀ (c : Code) (s : State), s.n.toNat ≤ 3 → s.st = .code1 ∨ (s.st = .code2 ∧ s.n ≠ 0#3) →
    s.size.toNat ≤ c.toNat →
    exec (.badc c) s = .next { s with
      st := .error, errCode := 1, errInfo := BitVec.ofNat 32 (s.size.toNat * 65536 + c.toNat) }

/-- R203, R146: with MAX_ENTRY_LEN bounded, a populated code whose update would append a longer entry raises
CapacityFault before any output or dictionary change; nothing else changes. -/
def Obligations.CapacityFaultBeforeAnyEffect : Prop :=
  ∀ (c : Code) (e : Entry) (m : Nat) (s : State), Inv s → InCodeStep s → c.toNat < s.size.toNat →
    dictRead s.dict c.toNat = some e → Config.maxEntryLen = some m → m < e.length + 1 →
    256 ≤ c.toNat ∧
    ∀ i, i = .dynf c ∨ i = .dynp c → exec i s = .next { s with
      st := .error, errCode := 3, errInfo := BitVec.ofNat 32 (s.size.toNat * 65536 + c.toNat) }

/-- R63, R141, R234, R215: a code step waits for each output byte. Where the host accepts the next `k` bytes of
the entry and not the one after them, the step gives it those `k` bytes, OUT_COUNT counts them (R30, R146) and all
else is kept; with `k = 0` nothing changes. The model's choice (log entry 11): what the host accepts stands in
`room` and the step's progress in `sent`. -/
def Obligations.CodeStepWaitsForTheSink : Prop :=
  ∀ (c : Code) (e : Entry) (k : Nat) (s : State), Inv s → InCodeStep s → c.toNat < s.size.toNat →
    dictRead s.dict c.toNat = some e → UpdateFits e → WaitsAfter s e k →
    ∀ i, (i = .lit (c.setWidth 8) ∧ c.toNat < 256) ∨ i = .dynf c ∨ i = .dynp c →
      exec i s = .next { s with
        out := s.out ++ (e.drop s.sent).take k, outCount := s.outCount + BitVec.ofNat 32 k,
        sent := s.sent + k, room := some 0 }

/-- R63, R141: a code step that waited goes on where it stopped. Whatever the host accepts from then on, the step
then does what it would have done had the host accepted the `k` bytes and these from the beginning: no byte is
lost, emitted twice or out of order. -/
def Obligations.WaitedStepGoesOnWhereItStopped : Prop :=
  ∀ (c : Code) (e : Entry) (k : Nat) (room : Option Nat) (s t : State), Inv s → InCodeStep s →
    c.toNat < s.size.toNat → dictRead s.dict c.toNat = some e → UpdateFits e → WaitsAfter s e k →
    exec (classify c s.size) s = .next t →
    exec (classify c t.size) { t with room := room } =
      exec (classify c s.size) { s with room := room.map (· + k) }

/-! ### The stream formats -/

/-- R81, R82, R151: PACK3 runs code1's whole code step, then code2's against the size code1's update left. -/
def Obligations.Pack3RunsBothCodesInOrder : Prop :=
  ∀ (c1 c2 : Code) (e1 : Entry) (s : State), Inv s → s.st = .code1 → s.n ≠ 0#3 → Accepts s e1 →
    c1.toNat < s.size.toNat → dictRead s.dict c1.toNat = some e1 → UpdateFits e1 →
    ∃ t1, CodePassed s t1 e1 ∧ exec (.pack3 c1 c2) s = exec (classify c2 t1.size) t1 ∧
      ∀ e2, c2.toNat < t1.size.toNat → dictRead t1.dict c2.toNat = some e2 → UpdateFits e2 → Accepts t1 e2 →
        ∃ t, exec (.pack3 c1 c2) s = .next t ∧ CodePassed t1 t e2

/-- R206, R121, R151: PACK3 looks at no second code where the trailing count is 0, where code1 raises InvalidCode or
CapacityFault, and where code1's step waits for the host. -/
def Obligations.Pack3LooksAtCode2OnlyAfterCode1Passes : Prop :=
  ∀ (c1 c2 c2' : Code) (s : State), s.st = .code1 →
    (s.n = 0#3 ∨ s.size.toNat ≤ c1.toNat ∨
      ∃ e, dictRead s.dict c1.toNat = some e ∧ (¬ UpdateFits e ∨ ∃ k, WaitsAfter s e k)) →
    exec (.pack3 c1 c2) s = exec (classify c1 s.size) s ∧ exec (.pack3 c1 c2') s = exec (.pack3 c1 c2) s

/-- R84: TAIL2 decodes one code, whatever its padding, and the run is done. -/
def Obligations.Tail2DecodesOneCode : Prop :=
  ∀ (c : Code) (pad : BitVec 4) (e : Entry) (s : State), Inv s → s.st = .code1 → s.n = 0#3 → Accepts s e →
    c.toNat < s.size.toNat → dictRead s.dict c.toNat = some e → UpdateFits e →
    ∃ t, exec (.tail2 c pad) s = .next t ∧ CodePassed s t e ∧ t.st = .done

/-- R85: the lone last byte arrives in W1 with count 1. -/
def Obligations.DelimArrivesInW1 : Prop :=
  ∀ (b : Byte) (s : State), s.st = .read1 →
    exec (.delim b) s = .next { s with st := .code1, W1 := ⟨b, 0, 0⟩, n := 1, inCount := s.inCount + 1 }

/-- R85, D29: with trailing count 1 the bytes of W1 are never interpreted: no step of the code steps depends on
them but to keep or clear them. -/
def Obligations.DelimiterByteIsNeverInterpreted : Prop :=
  ∀ (s t : State) (w : Window), s.n = 1#3 → InCodeStep s → step s = .next t →
    ∃ w', step { s with W1 := w } = .next { t with W1 := w' }

/-- Log entry 3 (the model's own): a turn by stream formats is one or two engine steps, so it adds no behaviour. -/
def Obligations.StreamTurnIsEngineSteps : Prop :=
  ∀ (s t : State) (rest : List Turn), step { s with turns := .stream :: rest } = .next t →
    step { s with turns := .engine :: rest } = .next t ∨
    ∃ u, step { s with turns := .engine :: .engine :: rest } = .next u ∧ step u = .next t

/-! ### Errors -/

/-- R205: the error exit sets errCode, errInfo and st, and nothing else. -/
def Obligations.ErrorExitSetsThreeFields : Prop :=
  ∀ (e : EngineError) (arg : BitVec 16) (s : State),
    raiseError e arg s = { s with
      errCode := (match e with | .invalidCode => 1 | .invalidFraming => 2 | .capacityFault => 3),
      errInfo := BitVec.ofNat 32 (s.size.toNat * 65536 + arg.toNat), st := .error }

/-- R200, R209: a step that enters ERROR is the engine's (no host turn), from a busy state, and records an error of
the engine. -/
def Obligations.ErrorIsEnteredOnlyFromABusyState : Prop :=
  ∀ s t : State, Inv s → step s = .next t → s.st ≠ .error → t.st = .error →
    (∀ op rest, s.turns ≠ .host op :: rest) ∧
    s.st.busy = true ∧ (t.errCode = 1 ∨ t.errCode = 2 ∨ t.errCode = 3) ∧
    (s.st = .read0 ∨ s.st = .read1 → t.errCode = 2) ∧ (InCodeStep s → t.errCode = 1 ∨ t.errCode = 3)

/-- R152, R153, R208: DONE and ERROR are left only by START, SRST or engine reset. -/
def Obligations.EndedRunIsLeftOnlyByACommand : Prop :=
  ∀ s t : State, Ended s → step s = .next t → t.st ≠ s.st →
    (∃ v, CtrlWrite s v ∧ (v.getLsbD 0 = true ∨ v.getLsbD 1 = true)) ∨ (∃ rest, s.turns = .host .reset :: rest)

/-- R152 to R154, R215: in IDLE, DONE and ERROR the engine's turn changes nothing. -/
def Obligations.QuiescentEngineTakesNoStep : Prop :=
  ∀ (s : State) (rest : List Turn), s.st = .idle ∨ s.st = .done ∨ s.st = .error →
    (s.turns = [] → step s = .next s) ∧
    (s.turns = .engine :: rest ∨ s.turns = .stream :: rest → step s = .next { s with turns := rest })

/-- The table of rule R140: an engine step, CTRL write or access moves `st` only along the table's rows (a stream
turn takes two of them at once). -/
def Obligations.TransitionsAreTheTableOfRuleR140 : Prop :=
  ∀ s t : State, (∀ rest, s.turns ≠ .stream :: rest) → step s = .next t →
    t.st = s.st ∨ t.st = .idle ∨ (s.st, t.st) ∈ transitions

/-! ### The dictionary -/

/-- R103 to R106: DICT_UPDATE of a populated code, from every state of the invariant. -/
def Obligations.DictUpdateFollowsItsThreeSteps : Prop :=
  ∀ (c : Code) (e : Entry) (s : State), Inv s → c.toNat < s.size.toNat → dictRead s.dict c.toNat = some e →
    ∃ b t, e.head? = some b ∧ dictUpdate c s = .ok t ∧ DictUpdated s t e b ∧
      t = { s with dict := t.dict, size := t.size, dictGen := t.dictGen }

/-- R25, R61, R107: exactly the slots `0 .. size-1` are populated, a literal slot holds its one byte, a dynamic one
two bytes or more. -/
def Obligations.ExactlyTheSlotsBelowSizeArePopulated : Prop :=
  ∀ (s : State) (k : Nat), Inv s →
    (k < 256 → dictRead s.dict k = some [BitVec.ofNat 8 k]) ∧
    (256 ≤ k → k < s.size.toNat → ∃ e, dictRead s.dict k = some e ∧ 2 ≤ e.length) ∧
    (s.size.toNat ≤ k → dictRead s.dict k = none)

/-- The dictionary table keeps its canonical form (log entry 12) and is in it in every state of the invariant. -/
def Obligations.DictWritesKeepTheCanonicalForm : Prop :=
  (∀ (d : Dict) (slot : Nat) (e : Entry), dictWf d = true → slot < 4096 → dictWf (dictWrite slot e d) = true) ∧
  (∀ (d : Dict) (slot k : Nat) (e : Entry), dictWf d = true → 256 ≤ slot →
    dictRead (dictWrite slot e d) k = if k = slot then some e else dictRead d k) ∧
  (∀ s : State, Inv s → dictWf s.dict = true)

/-- R30, R105: CODE_COUNT, size and DICT_GEN agree in every state a step reaches from one where they do: the
3841st update of a run makes the first dictionary reset. -/
def Obligations.CodeCountAgreesWithSizeAndGenerations : Prop :=
  CountsAgree State.reset ∧ ∀ s t : State, Inv s → CountsAgree s → step s = .next t → CountsAgree t

/-! ### The registers -/

/-- R33, R35 to R42, R175: what a host's read of an aligned word returns when BUSY = 0; the read changes nothing
else. -/
def Obligations.RegisterReadsWhenNotBusy : Prop :=
  ∀ (s : State) (rest : List Turn) (off : Nat), s.st.busy = false → off % 4 = 0 →
    s.turns = .host (.read (.csr off) 4) :: rest →
    ∃ v : Word, step s = .next { s with turns := rest, readLog := s.readLog ++ [v] } ∧
      (off = 0x00 → v = 0) ∧
      (off = 0x04 → v.extractLsb' 0 3 = s.st.bits ∧ v.getLsbD 3 = false ∧ v.getLsbD 4 = decide (s.st = .done) ∧
        v.getLsbD 5 = decide (s.st = .error) ∧ v.extractLsb' 6 2 = 0 ∧ v.extractLsb' 8 3 = s.errCode ∧
        v.extractLsb' 11 21 = 0) ∧
      (off = 0x08 → v.extractLsb' 0 13 = s.size ∧ v.extractLsb' 13 19 = 0) ∧
      (off = 0x0C → v = s.errInfo) ∧ (off = 0x10 → v = s.codeCount) ∧ (off = 0x14 → v = s.inCount) ∧
      (off = 0x18 → v = s.outCount) ∧ (off = 0x1C → v = s.dictGen) ∧
      (0x20 ≤ off → v = 0)

/-- R174: while BUSY = 1 a STATUS read shows BUSY = 1 and one of the four busy states; no read changes the
engine, and CTRL and unmapped offsets still read 0. The statement holds whatever the free values are. -/
def Obligations.RegisterReadsWhileBusy : Prop :=
  ∀ (s : State) (rest : List Turn) (off : Nat), s.st.busy = true → off % 4 = 0 →
    s.turns = .host (.read (.csr off) 4) :: rest →
    ∃ (v : Word) (d : Nat), step s = .next { s with turns := rest, readLog := s.readLog ++ [v], draws := d } ∧
      (off = 0x04 → v.getLsbD 3 = true ∧ v.getLsbD 4 = false ∧ v.getLsbD 5 = false ∧
        1 ≤ (v.extractLsb' 0 3).toNat ∧ (v.extractLsb' 0 3).toNat ≤ 4) ∧
      (off = 0x00 ∨ 0x20 ≤ off → v = 0)

/-- R64: an access of another width, or not at a multiple of 4, reads 0 and writes nothing, in every state. -/
def Obligations.OddAccessesReadZeroAndWriteNothing : Prop :=
  ∀ (s : State) (rest : List Turn) (off width : Nat) (v : Word), width ≠ 4 ∨ off % 4 ≠ 0 →
    (s.turns = .host (.read (.csr off) width) :: rest →
      step s = .next { s with turns := rest, readLog := s.readLog ++ [0] }) ∧
    (s.turns = .host (.write (.csr off) width v) :: rest → step s = .next { s with turns := rest })

/-- R176, R42: a write to a read-only register or an unmapped offset changes nothing. -/
def Obligations.WritesElsewhereChangeNothing : Prop :=
  ∀ (s : State) (rest : List Turn) (off width : Nat) (v : Word), off ≠ 0 →
    s.turns = .host (.write (.csr off) width v) :: rest → step s = .next { s with turns := rest }

/-- R33, R64, D12: for every CSR_BASE, a host's read or write at the bus address `CSR_BASE + off` is a step that
does what the access at offset `off` does. The last two clauses are the model's choice (log entry 7; the spec does
not say what lies below CSR_BASE): a read there returns 0 and a write there changes nothing. -/
def Obligations.RegistersStandAtCsrBase : Prop :=
  ∀ (s : State) (rest : List Turn) (off width : Nat) (v : Word),
    step { s with turns := .host (.read (.bus (Config.csrBase + off)) width) :: rest } =
      step { s with turns := .host (.read (.csr off) width) :: rest } ∧
    step { s with turns := .host (.write (.bus (Config.csrBase + off)) width v) :: rest } =
      step { s with turns := .host (.write (.csr off) width v) :: rest } ∧
    ∀ a, a < Config.csrBase →
      step { s with turns := .host (.read (.bus a) width) :: rest } =
        .next { s with turns := rest, readLog := s.readLog ++ [0] } ∧
      step { s with turns := .host (.write (.bus a) width v) :: rest } = .next { s with turns := rest }

/-- R32, R91: the three flags are these functions of `st`, at most one is 1, and the STATE encoding is 0 to 6 in
the order IDLE, READ0, READ1, CODE1, CODE2, DONE, ERROR, never 7. -/
def Obligations.FlagsAndStateEncoding : Prop :=
  Ctrl.idle.bits = 0 ∧ Ctrl.read0.bits = 1 ∧ Ctrl.read1.bits = 2 ∧ Ctrl.code1.bits = 3 ∧ Ctrl.code2.bits = 4 ∧
  Ctrl.done.bits = 5 ∧ Ctrl.error.bits = 6 ∧
  ∀ c : Ctrl,
    (c.busy = true ↔ c = .read0 ∨ c = .read1 ∨ c = .code1 ∨ c = .code2) ∧
    (c.isDone = true ↔ c = .done) ∧ (c.isErr = true ↔ c = .error) ∧
    (c.busy = true → c.isDone = false ∧ c.isErr = false) ∧ (c.isDone = true → c.isErr = false) ∧ c.bits ≠ 7

/-! ### The whole machine -/

/-- A step runs the decoded instruction: the step is exec of the instruction that the fetched bytes decode to; and
on the engine's turn the word fetched is code1 or code2 of W0 in the code steps, the host's answer in the read
steps. Around exec the step takes the turn from the schedule and, in a read step, the answer from the host. -/
def Obligations.StepRunsTheDecodedInstruction : Prop :=
  (∀ (s t : State) (f : Format) (bs : List Byte) (i : Instr), fetch s = .word f bs t → decode f bs = .ok i →
    step s = exec i t) ∧
  (∀ (s : State) (rest : List Turn), (s.turns = [] ∧ rest = []) ∨ s.turns = .engine :: rest →
    (s.st = .code1 → step s = exec (classify (unpackCode1 s.W0) s.size) { s with turns := rest }) ∧
    (s.st = .code2 → step s = exec (classify (unpackCode2 s.W0) s.size) { s with turns := rest }) ∧
    (∀ (a : Answer) (more : List Answer), s.answers = a :: more →
      (s.st = .read0 →
        step s = exec (read0Instr a.k a.l0 a.l1 a.l2) { s with turns := rest, answers := more }) ∧
      (s.st = .read1 →
        step s = exec (read1Instr a.k a.l0 a.l1 a.l2) { s with turns := rest, answers := more })))

/-- Log entry 5 (the model's own): a table word laid by withFetchWord is what the very next step runs, on a state
whose schedule and input are as before. -/
def Obligations.PlacedWordRunsNext : Prop :=
  ∀ (s : State) (nbits w : Nat) (i : Instr), decodeTableWord nbits w = some i →
    ∃ t, step (s.withFetchWord nbits w) = exec i t ∧ t.turns = s.turns ∧ t.answers = s.answers ∧
      t.stream = s.stream ∧ t.out = s.out ∧ t.readLog = s.readLog ∧ t.room = s.room

/-- R63: a byte once accepted is never withdrawn. -/
def Obligations.AcceptedOutputIsNeverWithdrawn : Prop :=
  ∀ s t : State, step s = .next t → s.out <+: t.out

/-- R63: the host gets no byte that it does not accept. -/
def Obligations.OutputNeverExceedsWhatTheHostAccepts : Prop :=
  ∀ (s t : State) (k : Nat), step s = .next t → s.room = some k → t.out.length ≤ s.out.length + k

/-- R30, R146: but for START, SRST and reset, OUT_COUNT grows by the number of bytes a step emits. -/
def Obligations.OutCountCountsTheOutput : Prop :=
  ∀ s t : State, step s = .next t → t.st ≠ .idle → (t.st = .read0 → s.st = .read0) →
    t.outCount = s.outCount + BitVec.ofNat 32 (t.out.length - s.out.length)

/-- The reset state meets the invariant. -/
def Obligations.ResetStateMeetsTheInvariant : Prop := Inv State.reset

/-- R22 to R30, R37, R107: every step keeps the invariant. -/
def Obligations.EveryStepKeepsTheInvariant : Prop := ∀ s t : State, Inv s → step s = .next t → Inv t

/-- R61, R109, R141: from a state of the invariant no step stops: the contracts of the dictionary are never broken
and every instruction the machine meets is executed. -/
def Obligations.NoStepEverStops : Prop := ∀ s : State, Inv s → Completes (step s)

/-- R156: with a well-behaved host and a stream of L bytes, a run takes at most `2 + ceil(L / 3)` read steps and
`2 * ceil(L / 3)` code steps, then has ended. -/
def Obligations.EveryRunEndsWithinItsBound : Prop :=
  ∀ (s : State) (bytes : List Byte), Inv s → s.st = .read0 → WellBehaved s bytes →
    ∃ r c t, RunsTo s r c t ∧ Ended t ∧ r ≤ 2 + (bytes.length + 2) / 3 ∧ c ≤ 2 * ((bytes.length + 2) / 3)

/-- R86: a run of a well-behaved host that ends in DONE has read the whole stream of L bytes and has decoded as many
codes as the table of rule R86 says. -/
def Obligations.DoneRunDecodesTheCodesOfItsLength : Prop :=
  ∀ (s t : State) (bytes : List Byte) (r c : Nat), Inv s → s.st = .read0 → WellBehaved s bytes →
    RunsTo s r c t → t.st = .done →
    c = codesOfLength bytes.length ∧ t.codeCount = BitVec.ofNat 32 (codesOfLength bytes.length) ∧
    t.inCount = BitVec.ofNat 32 bytes.length ∧ t.stream = some []
end

