-- ==== Sys2Proof/Laws/Decode.lean ====
section
/-! SUPPORT. The bit fields of the decoder and the encoder undo each other. -/

namespace Sys2Proof

/-- The two bytes of a CODE12 word give the code back. -/
theorem code12_of_bytes (c : Code) : (((c >>> 8).setWidth 8 : Byte) ++ (c.setWidth 8 : Byte)).setWidth 12 = c := by
  ext i hi
  simp only [BitVec.getElem_setWidth, BitVec.getLsbD_append, BitVec.getLsbD_setWidth, BitVec.getLsbD_ushiftRight]
  by_cases h : i < 8
  · simp [h, BitVec.getLsbD_eq_getElem hi]
  · have h1 : i - 8 < 8 := by omega
    have h2 : 8 + (i - 8) = i := by omega
    simp [h, h1, h2, BitVec.getLsbD_eq_getElem hi]

theorem code12_high_small (c : Code) : ((c >>> 8).setWidth 8 : Byte).toNat < 16 := by
  simp only [BitVec.toNat_setWidth, BitVec.toNat_ushiftRight, Nat.shiftRight_eq_div_pow]
  have := c.isLt
  omega

/-- A CODE12 word decodes to the class of its code (R87). -/
theorem decode_code12 (c : Code) (size : BitVec 13) :
    decode (.code12 size) (encodeCode12 c) = .ok (classify c size) := by
  have h := code12_high_small c
  simp only [decode, encodeCode12, decodeCode12, code12_of_bytes]
  rw [if_neg (by omega)]

/-- The count byte gives the count back, and its upper bits are 0. -/
theorem count_of_byte (k : BitVec 3) : ((k.setWidth 8 : Byte).setWidth 3) = k ∧ (k.setWidth 8 : Byte).toNat < 8 := by
  revert k; decide

/-- An answer's bytes decode to the column's row for its count (R88). -/
theorem decode_count0 (k : BitVec 3) (l0 l1 l2 : Byte) :
    decode .count3Read0 (encodeCount k l0 l1 l2) = .ok (read0Instr k l0 l1 l2) := by
  have h := count_of_byte k
  simp only [decode, encodeCount, decodeCount, h.1]
  rw [if_neg (by omega)]

theorem decode_count1 (k : BitVec 3) (l0 l1 l2 : Byte) :
    decode .count3Read1 (encodeCount k l0 l1 l2) = .ok (read1Instr k l0 l1 l2) := by
  have h := count_of_byte k
  simp only [decode, encodeCount, decodeCount, h.1]
  rw [if_neg (by omega)]

/-- The lanes of a word put together are the word (R67). -/
theorem wordOfLanes_lanes (v : Word) :
    wordOfLanes (v.extractLsb' 0 8) (v.extractLsb' 8 8) (v.extractLsb' 16 8) (v.extractLsb' 24 8) = v := by
  unfold wordOfLanes
  ext i hi
  simp only [BitVec.getElem_append, BitVec.getElem_extractLsb']
  have hi' : i < 32 := hi
  interval_cases i <;> rfl

/-- The lanes of a word decode to the command it is (R90). -/
theorem decode_ctrl (v : Word) : decode .ctrl32 (lanesOfWord v) = .ok (ctrlInstr v) := by
  simp only [decode, lanesOfWord, wordOfLanes_lanes]

/-- The command of a word put together from its fields (R90). -/
theorem ctrl_fields (ig : BitVec 30) (srst start : Bool) :
    let v : Word := ig ++ (BitVec.ofBool srst ++ BitVec.ofBool start)
    v.getLsbD 1 = srst ∧ v.getLsbD 0 = start ∧ v.extractLsb' 2 30 = ig := by
  intro v
  have hv (i : Nat) : v.getLsbD i =
      if i < 2 then (BitVec.ofBool srst ++ BitVec.ofBool start).getLsbD i else ig.getLsbD (i - 2) :=
    BitVec.getLsbD_append
  refine ⟨?_, ?_, ?_⟩
  · rw [hv]
    cases srst <;> cases start <;> rfl
  · rw [hv]
    cases srst <;> cases start <;> rfl
  · ext i hi
    rw [BitVec.getElem_extractLsb', hv, if_neg (by omega), Nat.add_sub_cancel_left, BitVec.getLsbD_eq_getElem hi]

/-- Packing and unpacking two codes (R81 to R83). -/
theorem unpack_pack (a b : Code) : unpackCode1 (packPair a b) = a ∧ unpackCode2 (packPair a b) = b := by
  have ha := a.isLt
  have hb := b.isLt
  constructor
  · apply BitVec.eq_of_getLsbD_eq
    intro i hi
    simp only [unpackCode1, packPair, BitVec.getLsbD_or, BitVec.getLsbD_shiftLeft, BitVec.getLsbD_ushiftRight,
      BitVec.getLsbD_setWidth, BitVec.getLsbD_and]
    by_cases h : i < 4
    · have : 4 + i - 4 = i := by omega
      have h12 : 8 + (4 + i) ≥ 12 := by omega
      interval_cases i <;> simp [BitVec.getLsbD_of_ge]
    · have h4 : 4 + (i - 4) = i := by omega
      have : i - 4 < 8 := by omega
      have h12 : ¬ 4 + i < 8 := by omega
      simp [h, h4, this, hi, h12]
      omega
  · apply BitVec.eq_of_getLsbD_eq
    intro i hi
    simp only [unpackCode2, packPair, BitVec.getLsbD_or, BitVec.getLsbD_shiftLeft, BitVec.getLsbD_ushiftRight,
      BitVec.getLsbD_setWidth, BitVec.getLsbD_and]
    interval_cases i <;> simp

/-- Packing and unpacking a single last code with its padding (R83, R84). -/
theorem unpack_packTail (a : Code) (pad : BitVec 4) :
    unpackCode1 ⟨(a >>> 4).setWidth 8, ((a &&& 0x0F).setWidth 8 <<< 4) ||| pad.setWidth 8, 0⟩ = a ∧
    ((((a &&& 0x0F).setWidth 8 <<< 4) ||| pad.setWidth 8 : Byte).setWidth 4) = pad := by
  constructor
  · apply BitVec.eq_of_getLsbD_eq
    intro i hi
    simp only [unpackCode1, BitVec.getLsbD_or, BitVec.getLsbD_shiftLeft, BitVec.getLsbD_ushiftRight,
      BitVec.getLsbD_setWidth, BitVec.getLsbD_and]
    interval_cases i <;> simp [BitVec.getLsbD_of_ge]
  · apply BitVec.eq_of_getLsbD_eq
    intro i hi
    simp only [BitVec.getLsbD_or, BitVec.getLsbD_shiftLeft, BitVec.getLsbD_setWidth, BitVec.getLsbD_and]
    interval_cases i <;> simp

end Sys2Proof
end

