-- ==== Sys2Proof/Laws/Dict.lean ====
section
/-! SUPPORT. The laws of the dictionary table: read after write, that writes keep the canonical form, and what a
table whose slots are exactly `256 .. 256+m-1` holds. -/

namespace Sys2Proof.Machine

/-! ### Read after write -/

theorem dictFind_put_same (d : Dict) (slot : Nat) (e : Entry) : dictFind (dictPut slot e d) slot = some e := by
  induction d with
  | nil => simp [dictPut, dictFind]
  | cons p rest ih =>
    obtain ⟨k, x⟩ := p
    by_cases h1 : slot < k
    · simp [dictPut, h1, dictFind]
    · by_cases h2 : slot = k
      · simp [dictPut, h2, dictFind]
      · simp only [dictPut, h1, h2, if_false, dictFind]
        rw [if_neg (fun h => h2 h.symm)]
        exact ih

theorem dictFind_put_other (d : Dict) (slot k : Nat) (e : Entry) (h : k ≠ slot) :
    dictFind (dictPut slot e d) k = dictFind d k := by
  induction d with
  | nil => simp [dictPut, dictFind, Ne.symm h]
  | cons p rest ih =>
    obtain ⟨j, x⟩ := p
    by_cases h1 : slot < j
    · simp [dictPut, h1, dictFind, Ne.symm h]
    · by_cases h2 : slot = j
      · subst h2
        simp [dictPut, dictFind, Ne.symm h]
      · simp only [dictPut, h1, h2, if_false, dictFind, ih]

/-- A dynamic slot reads as the entry just written; every other slot reads as before. -/
theorem dictRead_write (d : Dict) (slot k : Nat) (e : Entry) (h : 256 ≤ slot) :
    dictRead (dictWrite slot e d) k = if k = slot then some e else dictRead d k := by
  have hs : ¬ slot < 256 := by omega
  simp only [dictWrite, if_neg hs, dictRead]
  by_cases hk : k = slot
  · subst hk
    rw [if_neg hs, if_pos rfl, dictFind_put_same]
  · rw [dictFind_put_other d slot k e hk, if_neg hk]

/-- A literal slot holds its one byte whatever is written (R26). -/
theorem dictRead_literal (d : Dict) (k : Nat) (h : k < 256) : dictRead d k = some [BitVec.ofNat 8 k] := by
  simp [dictRead, h]

theorem dictRead_dynamic (d : Dict) (k : Nat) (h : 256 ≤ k) : dictRead d k = dictFind d k := by
  have hk : ¬ k < 256 := by omega
  simp [dictRead, hk]

/-! ### The canonical form -/

theorem dictRisesFrom_put {low : Nat} {d : Dict} {slot : Nat} (e : Entry) (h : dictRisesFrom low d = true)
    (hs : low < slot) : dictRisesFrom low (dictPut slot e d) = true := by
  induction d generalizing low with
  | nil => simp [dictPut, dictRisesFrom, hs]
  | cons p rest ih =>
    obtain ⟨k, x⟩ := p
    simp only [dictRisesFrom, Bool.and_eq_true, decide_eq_true_eq] at h
    by_cases h1 : slot < k
    · simp [dictPut, h1, dictRisesFrom, hs, h.2]
    · by_cases h2 : slot = k
      · simp [dictPut, h2, dictRisesFrom, h.1, h.2]
      · simp only [dictPut, h1, h2, if_false, dictRisesFrom, Bool.and_eq_true, decide_eq_true_eq]
        exact ⟨h.1, ih h.2 (by omega)⟩

theorem mem_dictPut {p : Nat × Entry} {d : Dict} {slot : Nat} {e : Entry} (h : p ∈ dictPut slot e d) :
    p = (slot, e) ∨ p ∈ d := by
  induction d with
  | nil => simpa [dictPut] using h
  | cons q rest ih =>
    obtain ⟨k, x⟩ := q
    by_cases h1 : slot < k
    · simpa [dictPut, h1] using h
    · by_cases h2 : slot = k
      · simp only [dictPut, h2, if_false, if_true, Nat.lt_irrefl, List.mem_cons] at h ⊢
        tauto
      · simp only [dictPut, h1, h2, if_false, List.mem_cons] at h ⊢
        rcases h with h | h
        · exact .inr (.inl h)
        · rcases ih h with h | h
          · exact .inl h
          · exact .inr (.inr h)

/-- Every write of a slot of the dictionary keeps the canonical form. -/
theorem dictWrite_wf {d : Dict} {slot : Nat} (e : Entry) (h : dictWf d = true) (hs : slot < 4096) :
    dictWf (dictWrite slot e d) = true := by
  unfold dictWrite
  split
  · exact h
  · rename_i hn
    simp only [dictWf, Bool.and_eq_true, List.all_eq_true, decide_eq_true_eq] at h ⊢
    refine ⟨dictRisesFrom_put e h.1 (by omega), fun p hp => ?_⟩
    rcases mem_dictPut hp with rfl | hp
    · exact hs
    · exact h.2 p hp

theorem dictWf_nil : dictWf [] = true := rfl

/-! ### A table whose slots are exactly `a .. a+m-1` -/

theorem dictRises_of_keys {d : Dict} {a m : Nat} (h : d.map Prod.fst = List.range' a m) {low : Nat}
    (hl : low < a) : dictRisesFrom low d = true := by
  induction d generalizing a m low with
  | nil => rfl
  | cons p rest ih =>
    obtain ⟨k, x⟩ := p
    cases m with
    | zero => simp at h
    | succ m =>
      simp only [List.map_cons, List.range'_succ, List.cons.injEq] at h
      obtain ⟨rfl, h⟩ := h
      simp only [dictRisesFrom, Bool.and_eq_true, decide_eq_true_eq]
      exact ⟨hl, ih h (by omega)⟩

theorem dictWf_of_keys {d : Dict} {m : Nat} (h : d.map Prod.fst = List.range' 256 m) (hm : m ≤ 3840) :
    dictWf d = true := by
  simp only [dictWf, Bool.and_eq_true, List.all_eq_true, decide_eq_true_eq]
  refine ⟨dictRises_of_keys h (by omega), fun p hp => ?_⟩
  have : p.1 ∈ d.map Prod.fst := List.mem_map_of_mem hp
  rw [h, List.mem_range'_1] at this
  omega

/-- A slot in the range holds an entry, listed under its number. -/
theorem dictFind_of_keys {d : Dict} {a m k : Nat} (h : d.map Prod.fst = List.range' a m) (h1 : a ≤ k)
    (h2 : k < a + m) : ∃ e, dictFind d k = some e ∧ (k, e) ∈ d := by
  induction d generalizing a m with
  | nil =>
    have hm : m = 0 := by simpa using congrArg List.length h.symm
    omega
  | cons p rest ih =>
    obtain ⟨j, x⟩ := p
    cases m with
    | zero => simp at h
    | succ m =>
      simp only [List.map_cons, List.range'_succ, List.cons.injEq] at h
      obtain ⟨rfl, h⟩ := h
      by_cases hj : j = k
      · exact ⟨x, by simp [dictFind, hj], by simp [hj]⟩
      · obtain ⟨e, he, hm⟩ := ih h (by omega) (by omega)
        exact ⟨e, by simp [dictFind, hj, he], List.mem_cons_of_mem _ hm⟩

/-- A slot outside the range holds none. -/
theorem dictFind_none_of_keys {d : Dict} {a m k : Nat} (h : d.map Prod.fst = List.range' a m)
    (hk : k < a ∨ a + m ≤ k) : dictFind d k = none := by
  induction d generalizing a m with
  | nil => rfl
  | cons p rest ih =>
    obtain ⟨j, x⟩ := p
    cases m with
    | zero => simp at h
    | succ m =>
      simp only [List.map_cons, List.range'_succ, List.cons.injEq] at h
      obtain ⟨rfl, h⟩ := h
      have hj : j ≠ k := by omega
      simp only [dictFind, hj, if_false]
      exact ih h (by omega)

/-- Writing the slot just past the range lists it at the end. -/
theorem dictPut_past_keys {d : Dict} {a m : Nat} (e : Entry) (h : d.map Prod.fst = List.range' a m) :
    dictPut (a + m) e d = d ++ [(a + m, e)] := by
  induction d generalizing a m with
  | nil => rfl
  | cons p rest ih =>
    obtain ⟨j, x⟩ := p
    cases m with
    | zero => simp at h
    | succ m =>
      simp only [List.map_cons, List.range'_succ, List.cons.injEq] at h
      obtain ⟨rfl, h⟩ := h
      have h1 : ¬ j + (m + 1) < j := by omega
      have h2 : ¬ j + (m + 1) = j := by omega
      have h3 : j + 1 + m = j + (m + 1) := by omega
      have := ih h
      rw [h3] at this
      simp only [dictPut, h1, h2, if_false, this, List.cons_append]

theorem keys_put_past {d : Dict} {a m : Nat} (e : Entry) (h : d.map Prod.fst = List.range' a m) :
    (dictPut (a + m) e d).map Prod.fst = List.range' a (m + 1) := by
  rw [dictPut_past_keys e h, List.map_append, h, List.range'_concat]
  simp

/-- Writing a listed slot keeps the slots that are listed. -/
theorem keys_put_in {d : Dict} {a m k : Nat} (e : Entry) (h : d.map Prod.fst = List.range' a m) (h1 : a ≤ k)
    (h2 : k < a + m) : (dictPut k e d).map Prod.fst = List.range' a m := by
  induction d generalizing a m with
  | nil =>
    have hm : m = 0 := by simpa using congrArg List.length h.symm
    omega
  | cons p rest ih =>
    obtain ⟨j, x⟩ := p
    cases m with
    | zero => simp at h
    | succ m =>
      simp only [List.map_cons, List.range'_succ, List.cons.injEq] at h
      obtain ⟨rfl, h⟩ := h
      by_cases hj : k = j
      · simp [dictPut, hj, h, List.range'_succ]
      · have hlt : ¬ k < j := by omega
        simp only [dictPut, hlt, hj, if_false, List.map_cons, List.range'_succ, List.cons.injEq, true_and]
        exact ih h (by omega) (by omega)

/-! ### The patched entry -/

/-- `setLast` is the entry without its last byte, followed by the new one (R104). -/
theorem setLast_eq (e : Entry) (b : Byte) (h : e ≠ []) : setLast e b = e.dropLast ++ [b] := by
  induction e with
  | nil => exact absurd rfl h
  | cons x rest ih =>
    cases rest with
    | nil => rfl
    | cons y rest => simpa [setLast] using ih (by simp)

theorem setLast_length (e : Entry) (b : Byte) : (setLast e b).length = e.length := by
  induction e with
  | nil => rfl
  | cons x rest ih =>
    cases rest with
    | nil => rfl
    | cons y rest => simpa [setLast] using ih

end Sys2Proof.Machine
end

