-- ==== Sys2Proof/Laws/State.lean ====
section
/-! SUPPORT. One lemma per field for each named update of the state, so that no proof unfolds a record update,
and the emission of an entry in closed form. -/

namespace Sys2Proof.Machine

@[simp] theorem goto_st (x : Ctrl) (s : State) : (goto x s).st = x := rfl
@[simp] theorem goto_W0 (x : Ctrl) (s : State) : (goto x s).W0 = s.W0 := rfl
@[simp] theorem goto_W1 (x : Ctrl) (s : State) : (goto x s).W1 = s.W1 := rfl
@[simp] theorem goto_n (x : Ctrl) (s : State) : (goto x s).n = s.n := rfl
@[simp] theorem goto_size (x : Ctrl) (s : State) : (goto x s).size = s.size := rfl
@[simp] theorem goto_dict (x : Ctrl) (s : State) : (goto x s).dict = s.dict := rfl
@[simp] theorem goto_errCode (x : Ctrl) (s : State) : (goto x s).errCode = s.errCode := rfl
@[simp] theorem goto_errInfo (x : Ctrl) (s : State) : (goto x s).errInfo = s.errInfo := rfl
@[simp] theorem goto_codeCount (x : Ctrl) (s : State) : (goto x s).codeCount = s.codeCount := rfl
@[simp] theorem goto_inCount (x : Ctrl) (s : State) : (goto x s).inCount = s.inCount := rfl
@[simp] theorem goto_outCount (x : Ctrl) (s : State) : (goto x s).outCount = s.outCount := rfl
@[simp] theorem goto_dictGen (x : Ctrl) (s : State) : (goto x s).dictGen = s.dictGen := rfl
@[simp] theorem goto_answers (x : Ctrl) (s : State) : (goto x s).answers = s.answers := rfl
@[simp] theorem goto_stream (x : Ctrl) (s : State) : (goto x s).stream = s.stream := rfl
@[simp] theorem goto_room (x : Ctrl) (s : State) : (goto x s).room = s.room := rfl
@[simp] theorem goto_sent (x : Ctrl) (s : State) : (goto x s).sent = s.sent := rfl
@[simp] theorem goto_out (x : Ctrl) (s : State) : (goto x s).out = s.out := rfl
@[simp] theorem goto_readLog (x : Ctrl) (s : State) : (goto x s).readLog = s.readLog := rfl
@[simp] theorem goto_turns (x : Ctrl) (s : State) : (goto x s).turns = s.turns := rfl
@[simp] theorem goto_draws (x : Ctrl) (s : State) : (goto x s).draws = s.draws := rfl

@[simp] theorem raiseError_st (e : EngineError) (a : BitVec 16) (s : State) : (raiseError e a s).st = .error := rfl
@[simp] theorem raiseError_W0 (e : EngineError) (a : BitVec 16) (s : State) : (raiseError e a s).W0 = s.W0 := rfl
@[simp] theorem raiseError_W1 (e : EngineError) (a : BitVec 16) (s : State) : (raiseError e a s).W1 = s.W1 := rfl
@[simp] theorem raiseError_n (e : EngineError) (a : BitVec 16) (s : State) : (raiseError e a s).n = s.n := rfl
@[simp] theorem raiseError_size (e : EngineError) (a : BitVec 16) (s : State) : (raiseError e a s).size = s.size := rfl
@[simp] theorem raiseError_dict (e : EngineError) (a : BitVec 16) (s : State) : (raiseError e a s).dict = s.dict := rfl
@[simp] theorem raiseError_errCode (e : EngineError) (a : BitVec 16) (s : State) : (raiseError e a s).errCode = e.code := rfl
@[simp] theorem raiseError_errInfo (e : EngineError) (a : BitVec 16) (s : State) : (raiseError e a s).errInfo = errInfoWord s.size a := rfl
@[simp] theorem raiseError_codeCount (e : EngineError) (a : BitVec 16) (s : State) : (raiseError e a s).codeCount = s.codeCount := rfl
@[simp] theorem raiseError_inCount (e : EngineError) (a : BitVec 16) (s : State) : (raiseError e a s).inCount = s.inCount := rfl
@[simp] theorem raiseError_outCount (e : EngineError) (a : BitVec 16) (s : State) : (raiseError e a s).outCount = s.outCount := rfl
@[simp] theorem raiseError_dictGen (e : EngineError) (a : BitVec 16) (s : State) : (raiseError e a s).dictGen = s.dictGen := rfl
@[simp] theorem raiseError_answers (e : EngineError) (a : BitVec 16) (s : State) : (raiseError e a s).answers = s.answers := rfl
@[simp] theorem raiseError_stream (e : EngineError) (a : BitVec 16) (s : State) : (raiseError e a s).stream = s.stream := rfl
@[simp] theorem raiseError_room (e : EngineError) (a : BitVec 16) (s : State) : (raiseError e a s).room = s.room := rfl
@[simp] theorem raiseError_sent (e : EngineError) (a : BitVec 16) (s : State) : (raiseError e a s).sent = s.sent := rfl
@[simp] theorem raiseError_out (e : EngineError) (a : BitVec 16) (s : State) : (raiseError e a s).out = s.out := rfl
@[simp] theorem raiseError_readLog (e : EngineError) (a : BitVec 16) (s : State) : (raiseError e a s).readLog = s.readLog := rfl
@[simp] theorem raiseError_turns (e : EngineError) (a : BitVec 16) (s : State) : (raiseError e a s).turns = s.turns := rfl
@[simp] theorem raiseError_draws (e : EngineError) (a : BitVec 16) (s : State) : (raiseError e a s).draws = s.draws := rfl

@[simp] theorem outWrite_st (b : Byte) (s : State) : (outWrite b s).st = s.st := rfl
@[simp] theorem outWrite_W0 (b : Byte) (s : State) : (outWrite b s).W0 = s.W0 := rfl
@[simp] theorem outWrite_W1 (b : Byte) (s : State) : (outWrite b s).W1 = s.W1 := rfl
@[simp] theorem outWrite_n (b : Byte) (s : State) : (outWrite b s).n = s.n := rfl
@[simp] theorem outWrite_size (b : Byte) (s : State) : (outWrite b s).size = s.size := rfl
@[simp] theorem outWrite_dict (b : Byte) (s : State) : (outWrite b s).dict = s.dict := rfl
@[simp] theorem outWrite_errCode (b : Byte) (s : State) : (outWrite b s).errCode = s.errCode := rfl
@[simp] theorem outWrite_errInfo (b : Byte) (s : State) : (outWrite b s).errInfo = s.errInfo := rfl
@[simp] theorem outWrite_codeCount (b : Byte) (s : State) : (outWrite b s).codeCount = s.codeCount := rfl
@[simp] theorem outWrite_inCount (b : Byte) (s : State) : (outWrite b s).inCount = s.inCount := rfl
@[simp] theorem outWrite_outCount (b : Byte) (s : State) : (outWrite b s).outCount = s.outCount + 1 := rfl
@[simp] theorem outWrite_dictGen (b : Byte) (s : State) : (outWrite b s).dictGen = s.dictGen := rfl
@[simp] theorem outWrite_answers (b : Byte) (s : State) : (outWrite b s).answers = s.answers := rfl
@[simp] theorem outWrite_stream (b : Byte) (s : State) : (outWrite b s).stream = s.stream := rfl
@[simp] theorem outWrite_room (b : Byte) (s : State) : (outWrite b s).room = s.room.map (· - 1) := rfl
@[simp] theorem outWrite_sent (b : Byte) (s : State) : (outWrite b s).sent = s.sent + 1 := rfl
@[simp] theorem outWrite_out (b : Byte) (s : State) : (outWrite b s).out = s.out ++ [b] := rfl
@[simp] theorem outWrite_readLog (b : Byte) (s : State) : (outWrite b s).readLog = s.readLog := rfl
@[simp] theorem outWrite_turns (b : Byte) (s : State) : (outWrite b s).turns = s.turns := rfl
@[simp] theorem outWrite_draws (b : Byte) (s : State) : (outWrite b s).draws = s.draws := rfl

@[simp] theorem endTransfer_st (s : State) : (endTransfer s).st = s.st := rfl
@[simp] theorem endTransfer_W0 (s : State) : (endTransfer s).W0 = s.W0 := rfl
@[simp] theorem endTransfer_W1 (s : State) : (endTransfer s).W1 = s.W1 := rfl
@[simp] theorem endTransfer_n (s : State) : (endTransfer s).n = s.n := rfl
@[simp] theorem endTransfer_size (s : State) : (endTransfer s).size = s.size := rfl
@[simp] theorem endTransfer_dict (s : State) : (endTransfer s).dict = s.dict := rfl
@[simp] theorem endTransfer_errCode (s : State) : (endTransfer s).errCode = s.errCode := rfl
@[simp] theorem endTransfer_errInfo (s : State) : (endTransfer s).errInfo = s.errInfo := rfl
@[simp] theorem endTransfer_codeCount (s : State) : (endTransfer s).codeCount = s.codeCount := rfl
@[simp] theorem endTransfer_inCount (s : State) : (endTransfer s).inCount = s.inCount := rfl
@[simp] theorem endTransfer_outCount (s : State) : (endTransfer s).outCount = s.outCount := rfl
@[simp] theorem endTransfer_dictGen (s : State) : (endTransfer s).dictGen = s.dictGen := rfl
@[simp] theorem endTransfer_answers (s : State) : (endTransfer s).answers = s.answers := rfl
@[simp] theorem endTransfer_stream (s : State) : (endTransfer s).stream = s.stream := rfl
@[simp] theorem endTransfer_room (s : State) : (endTransfer s).room = s.room := rfl
@[simp] theorem endTransfer_sent (s : State) : (endTransfer s).sent = 0 := rfl
@[simp] theorem endTransfer_out (s : State) : (endTransfer s).out = s.out := rfl
@[simp] theorem endTransfer_readLog (s : State) : (endTransfer s).readLog = s.readLog := rfl
@[simp] theorem endTransfer_turns (s : State) : (endTransfer s).turns = s.turns := rfl
@[simp] theorem endTransfer_draws (s : State) : (endTransfer s).draws = s.draws := rfl

@[simp] theorem cutAfter_st (k : Nat) (e : Entry) (s : State) : (cutAfter k e s).st = s.st := rfl
@[simp] theorem cutAfter_W0 (k : Nat) (e : Entry) (s : State) : (cutAfter k e s).W0 = s.W0 := rfl
@[simp] theorem cutAfter_W1 (k : Nat) (e : Entry) (s : State) : (cutAfter k e s).W1 = s.W1 := rfl
@[simp] theorem cutAfter_n (k : Nat) (e : Entry) (s : State) : (cutAfter k e s).n = s.n := rfl
@[simp] theorem cutAfter_size (k : Nat) (e : Entry) (s : State) : (cutAfter k e s).size = s.size := rfl
@[simp] theorem cutAfter_dict (k : Nat) (e : Entry) (s : State) : (cutAfter k e s).dict = s.dict := rfl
@[simp] theorem cutAfter_errCode (k : Nat) (e : Entry) (s : State) : (cutAfter k e s).errCode = s.errCode := rfl
@[simp] theorem cutAfter_errInfo (k : Nat) (e : Entry) (s : State) : (cutAfter k e s).errInfo = s.errInfo := rfl
@[simp] theorem cutAfter_codeCount (k : Nat) (e : Entry) (s : State) : (cutAfter k e s).codeCount = s.codeCount := rfl
@[simp] theorem cutAfter_inCount (k : Nat) (e : Entry) (s : State) : (cutAfter k e s).inCount = s.inCount := rfl
@[simp] theorem cutAfter_outCount (k : Nat) (e : Entry) (s : State) : (cutAfter k e s).outCount = s.outCount := rfl
@[simp] theorem cutAfter_dictGen (k : Nat) (e : Entry) (s : State) : (cutAfter k e s).dictGen = s.dictGen := rfl
@[simp] theorem cutAfter_answers (k : Nat) (e : Entry) (s : State) : (cutAfter k e s).answers = s.answers := rfl
@[simp] theorem cutAfter_stream (k : Nat) (e : Entry) (s : State) : (cutAfter k e s).stream = s.stream := rfl
@[simp] theorem cutAfter_room (k : Nat) (e : Entry) (s : State) : (cutAfter k e s).room = s.room.map (· - k) := rfl
@[simp] theorem cutAfter_sent (k : Nat) (e : Entry) (s : State) : (cutAfter k e s).sent = s.sent := rfl
@[simp] theorem cutAfter_out (k : Nat) (e : Entry) (s : State) : (cutAfter k e s).out = s.out ++ (e.drop s.sent).take k := rfl
@[simp] theorem cutAfter_readLog (k : Nat) (e : Entry) (s : State) : (cutAfter k e s).readLog = s.readLog := rfl
@[simp] theorem cutAfter_turns (k : Nat) (e : Entry) (s : State) : (cutAfter k e s).turns = s.turns := rfl
@[simp] theorem cutAfter_draws (k : Nat) (e : Entry) (s : State) : (cutAfter k e s).draws = s.draws + 1 := rfl

@[simp] theorem countIn_st (k : BitVec 3) (s : State) : (countIn k s).st = s.st := rfl
@[simp] theorem countIn_W0 (k : BitVec 3) (s : State) : (countIn k s).W0 = s.W0 := rfl
@[simp] theorem countIn_W1 (k : BitVec 3) (s : State) : (countIn k s).W1 = s.W1 := rfl
@[simp] theorem countIn_n (k : BitVec 3) (s : State) : (countIn k s).n = s.n := rfl
@[simp] theorem countIn_size (k : BitVec 3) (s : State) : (countIn k s).size = s.size := rfl
@[simp] theorem countIn_dict (k : BitVec 3) (s : State) : (countIn k s).dict = s.dict := rfl
@[simp] theorem countIn_errCode (k : BitVec 3) (s : State) : (countIn k s).errCode = s.errCode := rfl
@[simp] theorem countIn_errInfo (k : BitVec 3) (s : State) : (countIn k s).errInfo = s.errInfo := rfl
@[simp] theorem countIn_codeCount (k : BitVec 3) (s : State) : (countIn k s).codeCount = s.codeCount := rfl
@[simp] theorem countIn_inCount (k : BitVec 3) (s : State) : (countIn k s).inCount = s.inCount + k.setWidth 32 := rfl
@[simp] theorem countIn_outCount (k : BitVec 3) (s : State) : (countIn k s).outCount = s.outCount := rfl
@[simp] theorem countIn_dictGen (k : BitVec 3) (s : State) : (countIn k s).dictGen = s.dictGen := rfl
@[simp] theorem countIn_answers (k : BitVec 3) (s : State) : (countIn k s).answers = s.answers := rfl
@[simp] theorem countIn_stream (k : BitVec 3) (s : State) : (countIn k s).stream = s.stream := rfl
@[simp] theorem countIn_room (k : BitVec 3) (s : State) : (countIn k s).room = s.room := rfl
@[simp] theorem countIn_sent (k : BitVec 3) (s : State) : (countIn k s).sent = s.sent := rfl
@[simp] theorem countIn_out (k : BitVec 3) (s : State) : (countIn k s).out = s.out := rfl
@[simp] theorem countIn_readLog (k : BitVec 3) (s : State) : (countIn k s).readLog = s.readLog := rfl
@[simp] theorem countIn_turns (k : BitVec 3) (s : State) : (countIn k s).turns = s.turns := rfl
@[simp] theorem countIn_draws (k : BitVec 3) (s : State) : (countIn k s).draws = s.draws := rfl

@[simp] theorem nextWindow_st (s : State) : (nextWindow s).st = .read1 := rfl
@[simp] theorem nextWindow_W0 (s : State) : (nextWindow s).W0 = s.W1 := rfl
@[simp] theorem nextWindow_W1 (s : State) : (nextWindow s).W1 = s.W1 := rfl
@[simp] theorem nextWindow_n (s : State) : (nextWindow s).n = s.n := rfl
@[simp] theorem nextWindow_size (s : State) : (nextWindow s).size = s.size := rfl
@[simp] theorem nextWindow_dict (s : State) : (nextWindow s).dict = s.dict := rfl
@[simp] theorem nextWindow_errCode (s : State) : (nextWindow s).errCode = s.errCode := rfl
@[simp] theorem nextWindow_errInfo (s : State) : (nextWindow s).errInfo = s.errInfo := rfl
@[simp] theorem nextWindow_codeCount (s : State) : (nextWindow s).codeCount = s.codeCount := rfl
@[simp] theorem nextWindow_inCount (s : State) : (nextWindow s).inCount = s.inCount := rfl
@[simp] theorem nextWindow_outCount (s : State) : (nextWindow s).outCount = s.outCount := rfl
@[simp] theorem nextWindow_dictGen (s : State) : (nextWindow s).dictGen = s.dictGen := rfl
@[simp] theorem nextWindow_answers (s : State) : (nextWindow s).answers = s.answers := rfl
@[simp] theorem nextWindow_stream (s : State) : (nextWindow s).stream = s.stream := rfl
@[simp] theorem nextWindow_room (s : State) : (nextWindow s).room = s.room := rfl
@[simp] theorem nextWindow_sent (s : State) : (nextWindow s).sent = s.sent := rfl
@[simp] theorem nextWindow_out (s : State) : (nextWindow s).out = s.out := rfl
@[simp] theorem nextWindow_readLog (s : State) : (nextWindow s).readLog = s.readLog := rfl
@[simp] theorem nextWindow_turns (s : State) : (nextWindow s).turns = s.turns := rfl
@[simp] theorem nextWindow_draws (s : State) : (nextWindow s).draws = s.draws := rfl

@[simp] theorem dictInit_st (s : State) : (dictInit s).st = s.st := rfl
@[simp] theorem dictInit_W0 (s : State) : (dictInit s).W0 = s.W0 := rfl
@[simp] theorem dictInit_W1 (s : State) : (dictInit s).W1 = s.W1 := rfl
@[simp] theorem dictInit_n (s : State) : (dictInit s).n = s.n := rfl
@[simp] theorem dictInit_size (s : State) : (dictInit s).size = 256 := rfl
@[simp] theorem dictInit_dict (s : State) : (dictInit s).dict = [] := rfl
@[simp] theorem dictInit_errCode (s : State) : (dictInit s).errCode = s.errCode := rfl
@[simp] theorem dictInit_errInfo (s : State) : (dictInit s).errInfo = s.errInfo := rfl
@[simp] theorem dictInit_codeCount (s : State) : (dictInit s).codeCount = s.codeCount := rfl
@[simp] theorem dictInit_inCount (s : State) : (dictInit s).inCount = s.inCount := rfl
@[simp] theorem dictInit_outCount (s : State) : (dictInit s).outCount = s.outCount := rfl
@[simp] theorem dictInit_dictGen (s : State) : (dictInit s).dictGen = s.dictGen := rfl
@[simp] theorem dictInit_answers (s : State) : (dictInit s).answers = s.answers := rfl
@[simp] theorem dictInit_stream (s : State) : (dictInit s).stream = s.stream := rfl
@[simp] theorem dictInit_room (s : State) : (dictInit s).room = s.room := rfl
@[simp] theorem dictInit_sent (s : State) : (dictInit s).sent = s.sent := rfl
@[simp] theorem dictInit_out (s : State) : (dictInit s).out = s.out := rfl
@[simp] theorem dictInit_readLog (s : State) : (dictInit s).readLog = s.readLog := rfl
@[simp] theorem dictInit_turns (s : State) : (dictInit s).turns = s.turns := rfl
@[simp] theorem dictInit_draws (s : State) : (dictInit s).draws = s.draws := rfl

@[simp] theorem dictReset_st (s : State) : (dictReset s).st = s.st := rfl
@[simp] theorem dictReset_W0 (s : State) : (dictReset s).W0 = s.W0 := rfl
@[simp] theorem dictReset_W1 (s : State) : (dictReset s).W1 = s.W1 := rfl
@[simp] theorem dictReset_n (s : State) : (dictReset s).n = s.n := rfl
@[simp] theorem dictReset_size (s : State) : (dictReset s).size = 256 := rfl
@[simp] theorem dictReset_dict (s : State) : (dictReset s).dict = [] := rfl
@[simp] theorem dictReset_errCode (s : State) : (dictReset s).errCode = s.errCode := rfl
@[simp] theorem dictReset_errInfo (s : State) : (dictReset s).errInfo = s.errInfo := rfl
@[simp] theorem dictReset_codeCount (s : State) : (dictReset s).codeCount = s.codeCount := rfl
@[simp] theorem dictReset_inCount (s : State) : (dictReset s).inCount = s.inCount := rfl
@[simp] theorem dictReset_outCount (s : State) : (dictReset s).outCount = s.outCount := rfl
@[simp] theorem dictReset_dictGen (s : State) : (dictReset s).dictGen = s.dictGen := rfl
@[simp] theorem dictReset_answers (s : State) : (dictReset s).answers = s.answers := rfl
@[simp] theorem dictReset_stream (s : State) : (dictReset s).stream = s.stream := rfl
@[simp] theorem dictReset_room (s : State) : (dictReset s).room = s.room := rfl
@[simp] theorem dictReset_sent (s : State) : (dictReset s).sent = s.sent := rfl
@[simp] theorem dictReset_out (s : State) : (dictReset s).out = s.out := rfl
@[simp] theorem dictReset_readLog (s : State) : (dictReset s).readLog = s.readLog := rfl
@[simp] theorem dictReset_turns (s : State) : (dictReset s).turns = s.turns := rfl
@[simp] theorem dictReset_draws (s : State) : (dictReset s).draws = s.draws := rfl

@[simp] theorem engineReset_st (s : State) : (engineReset s).st = .idle := rfl
@[simp] theorem engineReset_W0 (s : State) : (engineReset s).W0 = Window.zero := rfl
@[simp] theorem engineReset_W1 (s : State) : (engineReset s).W1 = Window.zero := rfl
@[simp] theorem engineReset_n (s : State) : (engineReset s).n = 0#3 := rfl
@[simp] theorem engineReset_size (s : State) : (engineReset s).size = 256 := rfl
@[simp] theorem engineReset_dict (s : State) : (engineReset s).dict = [] := rfl
@[simp] theorem engineReset_errCode (s : State) : (engineReset s).errCode = 0 := rfl
@[simp] theorem engineReset_errInfo (s : State) : (engineReset s).errInfo = 0 := rfl
@[simp] theorem engineReset_codeCount (s : State) : (engineReset s).codeCount = 0 := rfl
@[simp] theorem engineReset_inCount (s : State) : (engineReset s).inCount = 0 := rfl
@[simp] theorem engineReset_outCount (s : State) : (engineReset s).outCount = 0 := rfl
@[simp] theorem engineReset_dictGen (s : State) : (engineReset s).dictGen = 0 := rfl
@[simp] theorem engineReset_answers (s : State) : (engineReset s).answers = s.answers := rfl
@[simp] theorem engineReset_stream (s : State) : (engineReset s).stream = s.stream := rfl
@[simp] theorem engineReset_room (s : State) : (engineReset s).room = s.room := rfl
@[simp] theorem engineReset_sent (s : State) : (engineReset s).sent = 0 := rfl
@[simp] theorem engineReset_out (s : State) : (engineReset s).out = s.out := rfl
@[simp] theorem engineReset_readLog (s : State) : (engineReset s).readLog = s.readLog := rfl
@[simp] theorem engineReset_turns (s : State) : (engineReset s).turns = s.turns := rfl
@[simp] theorem engineReset_draws (s : State) : (engineReset s).draws = s.draws := rfl

@[simp] theorem startRun_st (s : State) : (startRun s).st = .read0 := rfl
@[simp] theorem startRun_W0 (s : State) : (startRun s).W0 = Window.zero := rfl
@[simp] theorem startRun_W1 (s : State) : (startRun s).W1 = Window.zero := rfl
@[simp] theorem startRun_n (s : State) : (startRun s).n = 0#3 := rfl
@[simp] theorem startRun_size (s : State) : (startRun s).size = 256 := rfl
@[simp] theorem startRun_dict (s : State) : (startRun s).dict = [] := rfl
@[simp] theorem startRun_errCode (s : State) : (startRun s).errCode = 0 := rfl
@[simp] theorem startRun_errInfo (s : State) : (startRun s).errInfo = 0 := rfl
@[simp] theorem startRun_codeCount (s : State) : (startRun s).codeCount = 0 := rfl
@[simp] theorem startRun_inCount (s : State) : (startRun s).inCount = 0 := rfl
@[simp] theorem startRun_outCount (s : State) : (startRun s).outCount = 0 := rfl
@[simp] theorem startRun_dictGen (s : State) : (startRun s).dictGen = 0 := rfl
@[simp] theorem startRun_answers (s : State) : (startRun s).answers = s.answers := rfl
@[simp] theorem startRun_stream (s : State) : (startRun s).stream = s.stream := rfl
@[simp] theorem startRun_room (s : State) : (startRun s).room = s.room := rfl
@[simp] theorem startRun_sent (s : State) : (startRun s).sent = 0 := rfl
@[simp] theorem startRun_out (s : State) : (startRun s).out = s.out := rfl
@[simp] theorem startRun_readLog (s : State) : (startRun s).readLog = s.readLog := rfl
@[simp] theorem startRun_turns (s : State) : (startRun s).turns = s.turns := rfl
@[simp] theorem startRun_draws (s : State) : (startRun s).draws = s.draws := rfl

theorem acceptedOf_le (room : Option Nat) (len : Nat) : acceptedOf room len ≤ len := by
  unfold acceptedOf; split <;> omega

/-- The emission of bytes (R63, R66, R146): as many as the host accepts stand at the end of the output, OUT_COUNT
and the step count them, and the host accepts so many fewer. -/
theorem emit_eq (e : Entry) (s : State) :
    emit e s = { s with
      out := s.out ++ e.take (acceptedOf s.room e.length),
      outCount := s.outCount + BitVec.ofNat 32 (acceptedOf s.room e.length),
      sent := s.sent + acceptedOf s.room e.length, room := s.room.map (· - acceptedOf s.room e.length) } := by
  induction e generalizing s with
  | nil =>
    have h : acceptedOf s.room 0 = 0 := Nat.le_zero.1 (acceptedOf_le _ _)
    simp [emit, h]
  | cons b rest ih =>
    cases hr : s.room with
    | none =>
      have h : s.outCount + 1#32 + BitVec.ofNat 32 rest.length = s.outCount + BitVec.ofNat 32 (rest.length + 1) := by
        rw [Nat.add_comm, BitVec.ofNat_add, BitVec.add_assoc]
      simp [emit, hr, ih, outWrite, acceptedOf, h]
      omega
    | some k =>
      cases k with
      | zero =>
        simp only [emit, hr, acceptedOf, if_true, Nat.zero_min, List.take_zero, List.append_nil, Nat.add_zero,
          Option.map_some, Nat.sub_self]
        cases s
        simp_all
      | succ k =>
        have hk : min (k + 1) (rest.length + 1) = min k rest.length + 1 := by omega
        have h : s.outCount + 1#32 + BitVec.ofNat 32 (min k rest.length) =
            s.outCount + BitVec.ofNat 32 (min k rest.length + 1) := by
          rw [Nat.add_comm (min k rest.length), BitVec.ofNat_add, BitVec.add_assoc]
        simp [emit, hr, ih, outWrite, acceptedOf, h, hk]
        omega

@[simp] theorem emit_st (e : Entry) (s : State) : (emit e s).st = s.st := by rw [emit_eq]
@[simp] theorem emit_W0 (e : Entry) (s : State) : (emit e s).W0 = s.W0 := by rw [emit_eq]
@[simp] theorem emit_W1 (e : Entry) (s : State) : (emit e s).W1 = s.W1 := by rw [emit_eq]
@[simp] theorem emit_n (e : Entry) (s : State) : (emit e s).n = s.n := by rw [emit_eq]
@[simp] theorem emit_size (e : Entry) (s : State) : (emit e s).size = s.size := by rw [emit_eq]
@[simp] theorem emit_dict (e : Entry) (s : State) : (emit e s).dict = s.dict := by rw [emit_eq]
@[simp] theorem emit_errCode (e : Entry) (s : State) : (emit e s).errCode = s.errCode := by rw [emit_eq]
@[simp] theorem emit_errInfo (e : Entry) (s : State) : (emit e s).errInfo = s.errInfo := by rw [emit_eq]
@[simp] theorem emit_codeCount (e : Entry) (s : State) : (emit e s).codeCount = s.codeCount := by rw [emit_eq]
@[simp] theorem emit_inCount (e : Entry) (s : State) : (emit e s).inCount = s.inCount := by rw [emit_eq]
@[simp] theorem emit_outCount (e : Entry) (s : State) : (emit e s).outCount = s.outCount + BitVec.ofNat 32 (acceptedOf s.room e.length) := by rw [emit_eq]
@[simp] theorem emit_dictGen (e : Entry) (s : State) : (emit e s).dictGen = s.dictGen := by rw [emit_eq]
@[simp] theorem emit_answers (e : Entry) (s : State) : (emit e s).answers = s.answers := by rw [emit_eq]
@[simp] theorem emit_stream (e : Entry) (s : State) : (emit e s).stream = s.stream := by rw [emit_eq]
@[simp] theorem emit_room (e : Entry) (s : State) : (emit e s).room = s.room.map (· - acceptedOf s.room e.length) := by rw [emit_eq]
@[simp] theorem emit_sent (e : Entry) (s : State) : (emit e s).sent = s.sent + acceptedOf s.room e.length := by rw [emit_eq]
@[simp] theorem emit_out (e : Entry) (s : State) : (emit e s).out = s.out ++ e.take (acceptedOf s.room e.length) := by rw [emit_eq]
@[simp] theorem emit_readLog (e : Entry) (s : State) : (emit e s).readLog = s.readLog := by rw [emit_eq]
@[simp] theorem emit_turns (e : Entry) (s : State) : (emit e s).turns = s.turns := by rw [emit_eq]
@[simp] theorem emit_draws (e : Entry) (s : State) : (emit e s).draws = s.draws := by rw [emit_eq]

end Sys2Proof.Machine
end

