-- ==== Sys2Proof/Laws/Ops.lean ====
section
/-! SUPPORT. One lemma for each shared operation that says once everything it can do, so that proofs cite it
instead of unfolding the operation. -/

namespace Sys2Proof.Machine

open Sys2Proof.Safety

/-! ### The store's bound -/

/-- The check ProcessCode makes is the rule's: the appended entry is within MAX_ENTRY_LEN (R146, R6). -/
theorem entryFits_iff (e : Entry) : entryFits e.length = true ↔ UpdateFits e := by
  unfold entryFits UpdateFits Config.maxEntryLen
  cases Config.entryBoundExcess with
  | none => simp
  | some x =>
    simp only [Option.map_some, Option.all_some, Bool.or_eq_true, decide_eq_true_eq, Option.some.injEq]
    constructor
    · rintro (h | h) m rfl <;> omega
    · intro h
      exact .inr (h _ rfl)

/-- An entry short enough fits whatever the bound is. -/
theorem updateFits_of_short {e : Entry} (h : e.length ≤ 3840) : UpdateFits e := by
  rw [← entryFits_iff]
  simp [entryFits]
  omega

/-! ### The dictionary's update -/

/-- The patch changes the dictionary only, and only slot `size-1` where that is dynamic (R104). -/
theorem patchStep_ok {b : Byte} {s t : State} (h : patchStep b s = .ok t) :
    (s.size.toNat - 1 < 256 ∧ t = s) ∨
    (256 ≤ s.size.toNat - 1 ∧ ∃ p, dictRead s.dict (s.size.toNat - 1) = some p ∧ p ≠ [] ∧
      t = { s with dict := dictWrite (s.size.toNat - 1) (setLast p b) s.dict }) := by
  unfold patchStep at h
  split at h
  · exact .inl ⟨‹_›, by simpa using h.symm⟩
  · split at h
    · cases h
    · cases h
    · rename_i hn x rest hr
      exact .inr ⟨by omega, x :: rest, hr, by simp, by simpa using h.symm⟩

/-- The append changes slot `size` and the size only, below 4096 (R106). -/
theorem appendStep_ok {e : Entry} {s t : State} (h : appendStep e s = .ok t) :
    s.size.toNat < 4096 ∧ t = { s with dict := dictWrite s.size.toNat e s.dict, size := s.size + 1 } := by
  unfold appendStep at h
  split at h
  · cases h
  · exact ⟨by omega, by simpa using h.symm⟩

/-- What an update that completes has found and done: the snapshot, the patch, the full test, the append (R103). -/
theorem dictUpdate_ok {c : Code} {s t : State} (h : dictUpdate c s = .ok t) :
    ∃ b rest u, c.toNat < s.size.toNat ∧ dictRead s.dict c.toNat = some (b :: rest) ∧ patchStep b s = .ok u ∧
      appendStep ((b :: rest) ++ [b]) (fullStep u) = .ok t := by
  unfold dictUpdate at h
  split at h
  · cases h
  · split at h
    · cases h
    · cases h
    · rename_i hn b rest hr
      split at h
      · cases h
      · rename_i u hu
        exact ⟨b, rest, u, by omega, hr, hu, h⟩

/-- The full test changes the dictionary, its size and DICT_GEN only. -/
theorem fullStep_eq (s : State) :
    fullStep s = { s with
      dict := if s.size.toNat = 4096 then [] else s.dict,
      size := if s.size.toNat = 4096 then 256 else s.size,
      dictGen := if s.size.toNat = 4096 then s.dictGen + 1 else s.dictGen } := by
  unfold fullStep
  split <;> rfl

/-- An update changes the dictionary, its size and DICT_GEN only (R103). -/
theorem dictUpdate_frame {c : Code} {s t : State} (h : dictUpdate c s = .ok t) :
    t = { s with dict := t.dict, size := t.size, dictGen := t.dictGen } := by
  obtain ⟨b, rest, u, -, -, hu, ha⟩ := dictUpdate_ok h
  obtain ⟨-, rfl⟩ := appendStep_ok ha
  rw [fullStep_eq]
  obtain ⟨-, rfl⟩ | ⟨-, p, -, -, rfl⟩ := patchStep_ok hu <;> rfl

/-! ### The code step -/

/-- How ProcessCode passes: the checks, the emission, the update, the count (R146). -/
theorem processCode_passed {c : Code} {s t : State} (h : processCode c s = .passed t) :
    ∃ e u, c.toNat < s.size.toNat ∧ dictRead s.dict c.toNat = some e ∧ UpdateFits e ∧
      e.length ≤ (emit (e.drop s.sent) s).sent ∧
      dictUpdate c (endTransfer (emit (e.drop s.sent) s)) = .ok u ∧ t = { u with codeCount := u.codeCount + 1 } := by
  unfold processCode at h
  split at h
  · cases h
  · split at h
    · cases h
    · rename_i hn e hr
      split at h
      · rename_i hf
        unfold afterEmission at h
        split at h
        · rename_i hk
          unfold finishCode at h
          split at h
          · cases h
          · rename_i u hu
            exact ⟨e, u, by omega, hr, (entryFits_iff e).1 hf, hk, hu, by simpa using h.symm⟩
        · cases h
      · cases h

/-- How ProcessCode stops short: InvalidCode, CapacityFault, or the wait for the host to accept the next byte
(R63, R146, R201, R203). -/
theorem processCode_ended {c : Code} {s t : State} (h : processCode c s = .ended t) :
    (s.size.toNat ≤ c.toNat ∧ t = raiseError .invalidCode (c.setWidth 16) s) ∨
    (∃ e, c.toNat < s.size.toNat ∧ dictRead s.dict c.toNat = some e ∧ ¬ UpdateFits e ∧
      t = raiseError .capacityFault (c.setWidth 16) s) ∨
    (∃ e, c.toNat < s.size.toNat ∧ dictRead s.dict c.toNat = some e ∧ UpdateFits e ∧
      (emit (e.drop s.sent) s).sent < e.length ∧ t = emit (e.drop s.sent) s) := by
  unfold processCode at h
  split at h
  · exact .inl ⟨‹_›, by simpa using h.symm⟩
  · split at h
    · cases h
    · rename_i hn e hr
      split at h
      · rename_i hf
        unfold afterEmission at h
        split at h
        · unfold finishCode at h
          split at h <;> cases h
        · rename_i hk
          exact .inr (.inr ⟨e, by omega, hr, (entryFits_iff e).1 hf, by omega, by simpa using h.symm⟩)
      · rename_i hf
        exact .inr (.inl ⟨e, by omega, hr, fun hu => hf ((entryFits_iff e).2 hu), by simpa using h.symm⟩)

/-- The host accepts every byte a step has still to emit: the whole rest of the entry is out (R63, R66). -/
theorem emit_accepted {s : State} {e : Entry} (h : Accepts s e) :
    emit (e.drop s.sent) s = { s with
      out := s.out ++ e.drop s.sent, outCount := s.outCount + BitVec.ofNat 32 (e.length - s.sent),
      sent := e.length, room := s.room.map (· - (e.length - s.sent)) } := by
  obtain ⟨h1, h2⟩ := h
  have ha : acceptedOf s.room (e.length - s.sent) = e.length - s.sent := by
    unfold acceptedOf
    split
    · rfl
    · rename_i k hk
      have := h2 k hk
      omega
  rw [emit_eq, List.length_drop, ha, List.take_of_length_le (by simp), Nat.add_sub_cancel' (by omega)]

/-- The host accepts `k` more bytes, and the step waits after them (R63, R141). -/
theorem emit_waits {s : State} {e : Entry} {k : Nat} (h : WaitsAfter s e k) :
    emit (e.drop s.sent) s = { s with
      out := s.out ++ (e.drop s.sent).take k, outCount := s.outCount + BitVec.ofNat 32 k,
      sent := s.sent + k, room := some 0 } := by
  obtain ⟨h1, h2⟩ := h
  have ha : acceptedOf s.room (e.length - s.sent) = k := by
    rw [h1]
    show min k (e.length - s.sent) = k
    omega
  rw [emit_eq, List.length_drop, ha, h1, Option.map_some, Nat.sub_self]

/-- Where the controller goes when the code of a code step passes (R144, R145). -/
def afterCode (s : State) : State → State :=
  if s.st = .code1 then (if s.n = 0#3 then goto .done else goto .code2)
  else (if s.n = 1#3 then goto .done else nextWindow)

/-- A code step with a legal trailing count is ProcessCode and the transition (R144, R145). -/
theorem codeStep_eq (c : Code) {s : State} (h : s.st = .code1 ∨ (s.st = .code2 ∧ s.n ≠ 0#3))
    (hn : s.n.toNat ≤ 3) : codeStep c s = (processCode c s).andThen (afterCode s) := by
  have hcases : s.n = 0#3 ∨ s.n = 1#3 ∨ s.n = 2#3 ∨ s.n = 3#3 := by
    have : ∀ n : BitVec 3, n.toNat ≤ 3 → n = 0#3 ∨ n = 1#3 ∨ n = 2#3 ∨ n = 3#3 := by decide
    exact this s.n hn
  rcases h with h | ⟨h, h0⟩
  · rcases hcases with hc | hc | hc | hc <;> simp [codeStep, afterCode, h, hc, parse]
  · rcases hcases with hc | hc | hc | hc <;> simp_all [codeStep, afterCode, parse]

/-- What a code step can do when it answers a next state: the framing error of PARSE, an error or wait of
ProcessCode, or the code passed and the transition of rules R144 and R145. -/
theorem codeStep_next {c : Code} {s t : State} (h : codeStep c s = .next t) :
    (s.st = .code1 ∨ s.st = .code2) ∧
    ((4 ≤ s.n.toNat ∧ t = raiseError .invalidFraming (s.n.setWidth 16) s) ∨
      (s.n.toNat ≤ 3 ∧ (s.st = .code2 → s.n ≠ 0#3) ∧
        (processCode c s = .ended t ∨ ∃ u, processCode c s = .passed u ∧ t = afterCode s u))) := by
  by_cases hst : s.st = .code1 ∨ s.st = .code2
  · refine ⟨hst, ?_⟩
    by_cases hn : s.n.toNat ≤ 3
    · right
      by_cases h0 : s.st = .code2 ∧ s.n = 0#3
      · simp [codeStep, h0.1, h0.2, parse] at h
      · have h1 : s.st = .code2 → s.n ≠ 0#3 := fun a b => h0 ⟨a, b⟩
        rw [codeStep_eq c (hst.imp id fun a => ⟨a, h1 a⟩) hn] at h
        refine ⟨hn, h1, ?_⟩
        cases hp : processCode c s with
        | passed u => rw [hp] at h; exact .inr ⟨u, rfl, by simpa [CodeOutcome.andThen] using h.symm⟩
        | ended u => rw [hp] at h; exact .inl (by simpa [CodeOutcome.andThen] using h)
        | stopped r => rw [hp] at h; simp [CodeOutcome.andThen] at h
    · left
      have hp : parse s.W0 s.n = .framingError := by
        have : ∀ n : BitVec 3, ¬ n.toNat ≤ 3 → n ≠ 0#3 ∧ n ≠ 1#3 ∧ n ≠ 2#3 ∧ n ≠ 3#3 := by decide
        obtain ⟨a, b, c, d⟩ := this s.n hn
        unfold parse
        rw [if_neg a, if_neg b, if_neg c, if_neg d]
      refine ⟨by omega, ?_⟩
      rcases hst with hst | hst <;> simpa [codeStep, hst, hp] using h.symm
  · exfalso
    cases hs : s.st <;> simp_all [codeStep]

/-! ### The read steps -/

/-- What a READ0 step can do when it answers a next state (R142). -/
theorem read0Step_next {k : BitVec 3} {l0 l1 l2 : Byte} {s t : State} (h : read0Step k l0 l1 l2 s = .next t) :
    s.st = .read0 ∧
    ((4 ≤ k.toNat ∧ t = raiseError .invalidFraming (k.setWidth 16) s) ∨
      (k = 0#3 ∧ t = goto .done (countIn k s)) ∨
      (k.toNat ≤ 3 ∧ k ≠ 0#3 ∧ t = goto .read1 { countIn k s with W0 := fillLanes k l0 l1 l2 })) := by
  unfold read0Step at h
  split at h <;> try contradiction
  rename_i hs
  refine ⟨hs, ?_⟩
  split at h
  · exact .inl ⟨‹_›, by simpa using h.symm⟩
  · split at h
    · exact .inr (.inl ⟨‹_›, by simpa using h.symm⟩)
    · exact .inr (.inr ⟨by omega, ‹_›, by simpa using h.symm⟩)

/-- What a READ1 step can do when it answers a next state (R143). -/
theorem read1Step_next {k : BitVec 3} {l0 l1 l2 : Byte} {s t : State} (h : read1Step k l0 l1 l2 s = .next t) :
    s.st = .read1 ∧
    ((4 ≤ k.toNat ∧ t = raiseError .invalidFraming (k.setWidth 16) s) ∨
      (k.toNat ≤ 3 ∧ t = goto .code1 { countIn k s with W1 := fillLanes k l0 l1 l2, n := k })) := by
  unfold read1Step at h
  split at h <;> try contradiction
  rename_i hs
  refine ⟨hs, ?_⟩
  split at h
  · exact .inl ⟨‹_›, by simpa using h.symm⟩
  · exact .inr ⟨by omega, by simpa using h.symm⟩

/-! ### Windows, tails, commands and accesses -/

/-- What a window's move can do when it answers a next state: code1's code step, and code2's where the controller
then stands in CODE2. -/
theorem windowStep_next {c1 c2 : Code} {s t : State} (h : windowStep c1 c2 s = .next t) :
    s.st = .code1 ∧ ∃ u, codeStep c1 s = .next u ∧
      ((u.st ≠ .code2 ∧ t = u) ∨ (u.st = .code2 ∧ codeStep c2 u = .next t)) := by
  unfold windowStep at h
  split at h <;> try contradiction
  rename_i hs
  refine ⟨hs, ?_⟩
  split at h
  · rename_i u hu
    refine ⟨u, hu, ?_⟩
    split at h
    · exact .inr ⟨‹_›, h⟩
    · exact .inl ⟨‹_›, by simpa using h.symm⟩
  · cases h
  · cases h

/-- A tail's move is code1's code step at trailing count 0 (R84, R121). -/
theorem tailStep_next {c : Code} {s t : State} (h : tailStep c s = .next t) :
    s.st = .code1 ∧ s.n = 0#3 ∧ codeStep c s = .next t := by
  unfold tailStep at h
  split at h <;> try contradiction
  rename_i hs
  split at h
  · exact ⟨hs, ‹_›, h⟩
  · contradiction

/-- An entry in progress is that of the code step's own code, which passes the checks of rule R146. -/
theorem entryInProgress_some {s : State} {e : Entry} (h : entryInProgress s = some e) :
    ∃ c : Code, ((s.st = .code1 ∧ c = unpackCode1 s.W0) ∨ (s.st = .code2 ∧ c = unpackCode2 s.W0)) ∧
      c.toNat < s.size.toNat ∧ dictRead s.dict c.toNat = some e ∧ UpdateFits e := by
  have key : ∀ c : Code, (if s.size.toNat ≤ c.toNat then none else
      match dictRead s.dict c.toNat with
      | none => none
      | some e => if entryFits e.length then some e else none) = some e →
      c.toNat < s.size.toNat ∧ dictRead s.dict c.toNat = some e ∧ UpdateFits e := by
    intro c hc
    split at hc
    · cases hc
    · split at hc
      · cases hc
      · rename_i hr
        split at hc
        · rename_i hf
          cases hc
          exact ⟨by omega, hr, (entryFits_iff _).1 hf⟩
        · cases hc
  have codes : ∀ {a b : Code}, (parse s.W0 s.n = .stop1 a → a = unpackCode1 s.W0) ∧
      (parse s.W0 s.n = .stop2 a b → a = unpackCode1 s.W0 ∧ b = unpackCode2 s.W0) ∧
      (parse s.W0 s.n = .cont a b → a = unpackCode1 s.W0 ∧ b = unpackCode2 s.W0) := by
    intro a b
    unfold parse
    split
    · simp [eq_comm]
    · split
      · simp [eq_comm]
      · split
        · simp [eq_comm]
        · split <;> simp [eq_comm]
  unfold entryInProgress at h
  split at h
  · rename_i hs hp
    exact ⟨_, .inl ⟨hs, (codes (b := 0)).1 hp⟩, key _ h⟩
  · rename_i hs hp
    exact ⟨_, .inl ⟨hs, (codes.2.1 hp).1⟩, key _ h⟩
  · rename_i hs hp
    exact ⟨_, .inl ⟨hs, (codes.2.2 hp).1⟩, key _ h⟩
  · rename_i hs hp
    exact ⟨_, .inr ⟨hs, (codes.2.1 hp).2⟩, key _ h⟩
  · rename_i hs hp
    exact ⟨_, .inr ⟨hs, (codes.2.2 hp).2⟩, key _ h⟩
  · cases h

/-- What SRST and engine reset leave with the host: some next bytes of the entry in progress, no more than the
host accepts (R172). -/
theorem cutOutput_cases (s : State) :
    (entryInProgress s = none ∧ cutOutput s = s) ∨
    (∃ e k, entryInProgress s = some e ∧ k ≤ acceptedOf s.room (e.length - s.sent) ∧
      cutOutput s = cutAfter k e s) := by
  unfold cutOutput
  cases h : entryInProgress s with
  | none => exact .inl ⟨rfl, rfl⟩
  | some e => exact .inr ⟨e, _, rfl, Nat.lt_succ_iff.1 (Nat.mod_lt _ (Nat.succ_pos _)), rfl⟩

/-- A register read changes `readLog` and the free values used only (R70). -/
theorem hostRead_eq (a : BusAddr) (width : Nat) (s : State) :
    ∃ v d, hostRead a width s = { s with readLog := s.readLog ++ [v], draws := d } := by
  unfold hostRead
  split
  · exact ⟨0, s.draws, rfl⟩
  · exact ⟨_, _, rfl⟩

end Sys2Proof.Machine
end

