-- ==== Sys2Proof/Laws/PerInstr.lean ====
section
/-! SUPPORT. Statements made for each instruction: decoding its encoding, in a format whose guard admits it, gives
the instruction back. One lemma for each constructor. -/

namespace Sys2Proof.Laws.DecodeEncode

/-- Decoding the encoding of a well-formed instruction in a format that admits it gives it back (R81 to R84, R87,
R88, R90). -/
def Statement (i : Instr) : Prop :=
  ∀ f : Format, i.wf = true → i.inFormat f = true → decode f (encode i) = .ok i

theorem lit (c : BitVec 8) : Statement (.lit c) := by
  intro f _ h
  cases f <;> try exact absurd h Bool.false_ne_true
  refine (decode_code12 _ _).trans ?_
  rw [classify, if_pos]
  · congr 2
    simp
  · have := c.isLt
    simp only [BitVec.toNat_setWidth]
    omega

theorem dynf (c : BitVec 12) : Statement (.dynf c) := by
  intro f _ h
  cases f <;> try exact absurd h Bool.false_ne_true
  obtain ⟨h1, h2⟩ := (Bool.and_eq_true _ _ ▸ h : _ ∧ _)
  have h1 := of_decide_eq_true h1
  have h2 := of_decide_eq_true h2
  refine (decode_code12 _ _).trans ?_
  rw [classify, if_neg (by omega)]
  rw [if_neg (by omega), if_neg (by omega)]

theorem dynp (c : BitVec 12) : Statement (.dynp c) := by
  intro f _ h
  cases f <;> try exact absurd h Bool.false_ne_true
  obtain ⟨h1, h2⟩ := (Bool.and_eq_true _ _ ▸ h : _ ∧ _)
  have h1 := of_decide_eq_true h1
  have h2 := of_decide_eq_true h2
  refine (decode_code12 _ _).trans ?_
  rw [classify, if_neg (by omega)]
  rw [if_neg (by omega), if_pos h2]

theorem badc (c : BitVec 12) : Statement (.badc c) := by
  intro f _ h
  cases f <;> try exact absurd h Bool.false_ne_true
  obtain ⟨h1, h2⟩ := (Bool.and_eq_true _ _ ▸ h : _ ∧ _)
  have h1 := of_decide_eq_true h1
  have h2 := of_decide_eq_true h2
  refine (decode_code12 _ _).trans ?_
  rw [classify, if_neg (by omega)]
  rw [if_pos h2]

theorem rd0Empty (l0 l1 l2 : BitVec 8) : Statement (.rd0Empty l0 l1 l2) := by
  intro f _ h
  cases f <;> try exact absurd h Bool.false_ne_true
  exact decode_count0 _ _ _ _

theorem rd0N1 (l0 l1 l2 : BitVec 8) : Statement (.rd0N1 l0 l1 l2) := by
  intro f _ h
  cases f <;> try exact absurd h Bool.false_ne_true
  exact decode_count0 _ _ _ _

theorem rd0N2 (l0 l1 l2 : BitVec 8) : Statement (.rd0N2 l0 l1 l2) := by
  intro f _ h
  cases f <;> try exact absurd h Bool.false_ne_true
  exact decode_count0 _ _ _ _

theorem rd0N3 (l0 l1 l2 : BitVec 8) : Statement (.rd0N3 l0 l1 l2) := by
  intro f _ h
  cases f <;> try exact absurd h Bool.false_ne_true
  exact decode_count0 _ _ _ _

theorem rd0Bad (k : BitVec 3) (l0 l1 l2 : BitVec 8) : Statement (.rd0Bad k l0 l1 l2) := by
  intro f _ h
  cases f <;> try exact absurd h Bool.false_ne_true
  have h := of_decide_eq_true h
  refine (decode_count0 _ _ _ _).trans ?_
  have hk : ∀ k : BitVec 3, 4 ≤ k.toNat → k ≠ 0#3 ∧ k ≠ 1#3 ∧ k ≠ 2#3 ∧ k ≠ 3#3 := by decide
  obtain ⟨h0, h1, h2, h3⟩ := hk k h
  rw [read0Instr, if_neg h0, if_neg h1, if_neg h2, if_neg h3]

theorem rd1Stop1 (l0 l1 l2 : BitVec 8) : Statement (.rd1Stop1 l0 l1 l2) := by
  intro f _ h
  cases f <;> try exact absurd h Bool.false_ne_true
  exact decode_count1 _ _ _ _

theorem rd1Stop2 (l0 l1 l2 : BitVec 8) : Statement (.rd1Stop2 l0 l1 l2) := by
  intro f _ h
  cases f <;> try exact absurd h Bool.false_ne_true
  exact decode_count1 _ _ _ _

theorem rd1Cont2 (l0 l1 l2 : BitVec 8) : Statement (.rd1Cont2 l0 l1 l2) := by
  intro f _ h
  cases f <;> try exact absurd h Bool.false_ne_true
  exact decode_count1 _ _ _ _

theorem rd1Cont3 (l0 l1 l2 : BitVec 8) : Statement (.rd1Cont3 l0 l1 l2) := by
  intro f _ h
  cases f <;> try exact absurd h Bool.false_ne_true
  exact decode_count1 _ _ _ _

theorem rd1Bad (k : BitVec 3) (l0 l1 l2 : BitVec 8) : Statement (.rd1Bad k l0 l1 l2) := by
  intro f _ h
  cases f <;> try exact absurd h Bool.false_ne_true
  have h := of_decide_eq_true h
  refine (decode_count1 _ _ _ _).trans ?_
  have hk : ∀ k : BitVec 3, 4 ≤ k.toNat → k ≠ 0#3 ∧ k ≠ 1#3 ∧ k ≠ 2#3 ∧ k ≠ 3#3 := by decide
  obtain ⟨h0, h1, h2, h3⟩ := hk k h
  rw [read1Instr, if_neg h0, if_neg h1, if_neg h2, if_neg h3]

theorem pack3 (code1 code2 : BitVec 12) : Statement (.pack3 code1 code2) := by
  intro f _ h
  cases f <;> try exact absurd h Bool.false_ne_true
  have := unpack_pack code1 code2
  exact congrArg Except.ok (congrArg₂ Instr.pack3 this.1 this.2)

theorem tail2 (code1 : BitVec 12) (pad : BitVec 4) : Statement (.tail2 code1 pad) := by
  intro f _ h
  cases f <;> try exact absurd h Bool.false_ne_true
  have := unpack_packTail code1 pad
  exact congrArg Except.ok (congrArg₂ Instr.tail2 this.1 this.2)

theorem delim (ignored : BitVec 8) : Statement (.delim ignored) := by
  intro f _ h
  cases f <;> try exact absurd h Bool.false_ne_true
  rfl

theorem cmdNone (ignored : BitVec 30) : Statement (.cmdNone ignored) := by
  intro f _ h
  cases f <;> try exact absurd h Bool.false_ne_true
  obtain ⟨h1, h0, h2⟩ := ctrl_fields ignored false false
  refine (decode_ctrl _).trans ?_
  rw [ctrlInstr, h1, h0, h2]
  rfl

theorem cmdStart (ignored : BitVec 30) : Statement (.cmdStart ignored) := by
  intro f _ h
  cases f <;> try exact absurd h Bool.false_ne_true
  obtain ⟨h1, h0, h2⟩ := ctrl_fields ignored false true
  refine (decode_ctrl _).trans ?_
  rw [ctrlInstr, h1, h0, h2]
  rfl

theorem cmdSrst (ignored : BitVec 30) (start : Bool) : Statement (.cmdSrst ignored start) := by
  intro f _ h
  cases f <;> try exact absurd h Bool.false_ne_true
  obtain ⟨h1, h0, h2⟩ := ctrl_fields ignored true start
  refine (decode_ctrl _).trans ?_
  rw [ctrlInstr, h1, h0, h2]
  rfl

end Sys2Proof.Laws.DecodeEncode
end

