-- ==== Sys2Proof/Laws/Step.lean ====
section
/-! SUPPORT. What one step of the machine can do: the instruction each fetched word decodes to, the shared operation
each instruction runs, and one inversion lemma for the whole step. -/

namespace Sys2Proof.Machine

open Sys2Proof.Safety

/-! ### Instructions and shared operations -/

/-- Whatever its class, a code runs the code step (R144 to R150). -/
theorem exec_classify (c : Code) (size : BitVec 13) (s : State) : exec (classify c size) s = codeStep c s := by
  unfold classify
  split
  · rename_i h
    have : ((c.setWidth 8).setWidth 12 : Code) = c := by
      apply BitVec.eq_of_toNat_eq
      simp only [BitVec.toNat_setWidth]
      omega
    simp only [exec, execLit, this]
  · split
    · rfl
    · split <;> rfl

/-- Whatever its count, an answer runs the read step of its column (R142, R143). -/
theorem exec_read0Instr (k : BitVec 3) (l0 l1 l2 : Byte) (s : State) :
    exec (read0Instr k l0 l1 l2) s = read0Step k l0 l1 l2 s := by
  unfold read0Instr
  split
  · subst k; rfl
  · split
    · subst k; rfl
    · split
      · subst k; rfl
      · split
        · subst k; rfl
        · rfl

theorem exec_read1Instr (k : BitVec 3) (l0 l1 l2 : Byte) (s : State) :
    exec (read1Instr k l0 l1 l2) s = read1Step k l0 l1 l2 s := by
  unfold read1Instr
  split
  · subst k; rfl
  · split
    · subst k; rfl
    · split
      · subst k; rfl
      · split
        · subst k; rfl
        · rfl

/-- A command always answers a next state (R170 to R173). -/
theorem exec_ctrlInstr (v : Word) (s : State) :
    exec (ctrlInstr v) s = .next (if v.getLsbD 1 then resetEngine s
      else if v.getLsbD 0 then startCommand s else s) := by
  unfold ctrlInstr
  split
  · rfl
  · split <;> rfl

/-! ### The engine's turn -/

/-- The state with the turn taken from the schedule. -/
def takeTurn (s : State) : State := { s with turns := s.turns.tail }

theorem step_word {s t : State} {f : Format} {bs : List Byte} {i : Instr} (h : fetch s = .word f bs t)
    (hd : decode f bs = .ok i) : step s = exec i t := by
  unfold step
  rw [h]
  simp only [hd]

theorem fetch_engine {s : State} (h : s.turns = [] ∨ ∃ rest, s.turns = .engine :: rest) :
    fetch s = engineFetch (takeTurn s) := by
  rcases h with h | ⟨rest, h⟩
  · have : takeTurn s = s := by cases s; simp_all [takeTurn]
    rw [this, fetch, h]
  · simp only [fetch, h, takeTurn, List.tail_cons]

theorem fetch_stream {s : State} {rest : List Turn} (h : s.turns = .stream :: rest) :
    fetch s = streamFetch (takeTurn s) := by
  simp only [fetch, h, takeTurn, List.tail_cons]

theorem fetch_host {s : State} {rest : List Turn} {op : HostOp} (h : s.turns = .host op :: rest) :
    fetch s = hostFetch op (takeTurn s) := by
  simp only [fetch, h, takeTurn, List.tail_cons]

/-- The host's next answer changes the host's side only (R62). -/
theorem nextAnswer_some {s t : State} {a : Answer} (h : nextAnswer s = some (a, t)) :
    t = { s with answers := t.answers, stream := t.stream } := by
  unfold nextAnswer at h
  split at h
  · simp only [Option.some.injEq, Prod.mk.injEq] at h
    obtain ⟨-, rfl⟩ := h
    rfl
  · split at h
    · cases h
    · simp only [Option.some.injEq, Prod.mk.injEq] at h
      obtain ⟨-, rfl⟩ := h
      rfl

/-- What a fetched word of the engine, taken in state `s`, runs. -/
inductive Runs (s : State) : Host.Outcome State Fault Refusal → Prop
  /-- Nobody moves. -/
  | wait : Runs s (.next s)
  /-- A read step with the host's answer. -/
  | read0 (a : Answer) (u : State) (hs : s.st = .read0) (ha : nextAnswer s = some (a, u)) :
      Runs s (read0Step a.k a.l0 a.l1 a.l2 u)
  | read1 (a : Answer) (u : State) (hs : s.st = .read1) (ha : nextAnswer s = some (a, u)) :
      Runs s (read1Step a.k a.l0 a.l1 a.l2 u)
  /-- The delimiter's read. -/
  | lone (a : Answer) (u : State) (hs : s.st = .read1) (ha : nextAnswer s = some (a, u)) (hk : a.k = 1#3) :
      Runs s (read1Step 1 a.l0 0 0 u)
  /-- A code step with the code of W0. -/
  | code1 (hs : s.st = .code1) : Runs s (codeStep (unpackCode1 s.W0) s)
  | code2 (hs : s.st = .code2) : Runs s (codeStep (unpackCode2 s.W0) s)
  /-- A whole window. -/
  | window (hs : s.st = .code1) (hn : s.n ≠ 0#3) : Runs s (windowStep (unpackCode1 s.W0) (unpackCode2 s.W0) s)
  /-- A last window. -/
  | tail (hs : s.st = .code1) (hn : s.n = 0#3) : Runs s (tailStep (unpackCode1 s.W0) s)
  /-- A host access. -/
  | access (op : HostOp) : Runs s (.next (hostAccess op s))
  /-- A command. -/
  | ctrl (v : Word) : Runs s (exec (ctrlInstr v) s)

/-- The outcome of what was fetched. -/
def outcomeOf : Fetched → Host.Outcome State Fault Refusal
  | .wait t => .next t
  | .access op t => .next (hostAccess op t)
  | .word f bs t =>
    match decode f bs with
    | .ok i => exec i t
    | .error e => .refused (.undecodable e)

theorem step_eq_outcomeOf (s : State) : step s = outcomeOf (fetch s) := by
  unfold step outcomeOf
  cases fetch s <;> rfl

theorem outcomeOf_code (c : Code) (size : BitVec 13) (s : State) :
    outcomeOf (.word (.code12 size) (encodeCode12 c) s) = codeStep c s := by
  simp only [outcomeOf, decode_code12, exec_classify]

theorem outcomeOf_read0 (a : Answer) (s : State) :
    outcomeOf (.word .count3Read0 a.bytes s) = read0Step a.k a.l0 a.l1 a.l2 s := by
  simp only [outcomeOf, Answer.bytes, decode_count0, exec_read0Instr]

theorem outcomeOf_read1 (a : Answer) (s : State) :
    outcomeOf (.word .count3Read1 a.bytes s) = read1Step a.k a.l0 a.l1 a.l2 s := by
  simp only [outcomeOf, Answer.bytes, decode_count1, exec_read1Instr]

theorem engineFetch_runs (s : State) : Runs s (outcomeOf (engineFetch s)) := by
  unfold engineFetch
  split
  · exact .wait
  · rename_i hs
    split
    · exact .wait
    · rename_i a u ha
      rw [outcomeOf_read0]
      exact .read0 a u hs ha
  · rename_i hs
    split
    · exact .wait
    · rename_i a u ha
      rw [outcomeOf_read1]
      exact .read1 a u hs ha
  · rename_i hs
    rw [outcomeOf_code]
    exact .code1 hs
  · rename_i hs
    rw [outcomeOf_code]
    exact .code2 hs
  · exact .wait
  · exact .wait

theorem streamFetch_runs (s : State) : Runs s (outcomeOf (streamFetch s)) := by
  unfold streamFetch
  split
  · rename_i hs
    split
    · exact .tail hs ‹_›
    · exact .window hs ‹_›
  · rename_i hs
    split
    · exact .wait
    · rename_i a u ha
      split
      · exact .lone a u hs ha ‹_›
      · rw [outcomeOf_read1]
        exact .read1 a u hs ha
  · exact engineFetch_runs s
  · exact engineFetch_runs s
  · exact engineFetch_runs s
  · exact engineFetch_runs s
  · exact engineFetch_runs s

theorem hostFetch_runs (op : HostOp) (s : State) : Runs s (outcomeOf (hostFetch op s)) := by
  unfold hostFetch
  split
  · split
    · simp only [outcomeOf, decode_ctrl]
      exact .ctrl _
    · exact .access _
  · exact .access _
  · exact .access _
  · exact .access _
  · exact .access _

/-- Everything a step can do: it takes the turn from the schedule and then does one of these. -/
theorem step_runs (s : State) : Runs (takeTurn s) (step s) := by
  rw [step_eq_outcomeOf]
  cases h : s.turns with
  | nil => rw [fetch_engine (.inl h)]; exact engineFetch_runs _
  | cons turn rest =>
    cases turn with
    | engine => rw [fetch_engine (.inr ⟨rest, h⟩)]; exact engineFetch_runs _
    | stream => rw [fetch_stream h]; exact streamFetch_runs _
    | host op => rw [fetch_host h]; exact hostFetch_runs op _

end Sys2Proof.Machine
end

