-- ==== Sys2Proof/Tests/Slice0.lean ====
section
/-! SUPPORT. The model's own tests: the well-formedness smoke test, the decoding of words written out from
30_encoding.md, single steps with the expected values of 95_test_vectors.md, and for each statement with hypotheses
a concrete state that meets them. -/

namespace Sys2Proof.Tests

open Sys2Proof.Machine Sys2Proof.Safety

/-! ### Well-formedness: one ill-formed term for each check -/

theorem test_wf_dynf_low : Instr.wf (.dynf 255) = false := by decide
theorem test_wf_dynf_high : Instr.wf (.dynf 4095) = false := by decide
theorem test_wf_dynp_low : Instr.wf (.dynp 255) = false := by decide
theorem test_wf_badc_low : Instr.wf (.badc 255) = false := by decide
theorem test_wf_rd0Bad_low : Instr.wf (.rd0Bad 3 0 0 0) = false := by decide
theorem test_wf_rd1Bad_low : Instr.wf (.rd1Bad 3 0 0 0) = false := by decide
theorem test_format_dynf_is_provisional : Instr.inFormat (.dynf 256) (.code12 257) = false := by decide
theorem test_format_dynp_is_final : Instr.inFormat (.dynp 256) (.code12 258) = false := by decide
theorem test_format_badc_is_populated : Instr.inFormat (.badc 256) (.code12 257) = false := by decide
theorem test_format_other_read : Instr.inFormat (.rd0Empty 0 0 0) .count3Read1 = false := by decide

/-! ### Decoding: words written out from the encoding tables -/

/-- R87, V-K2: code 0x0FF. -/
theorem test_decode_lit : decode (.code12 256) [0xFF, 0x00] = .ok (.lit 0xFF) := by rfl
/-- V-K5. -/
theorem test_decode_dynf : decode (.code12 258) [0x00, 0x01] = .ok (.dynf 0x100) := by rfl
/-- V-K4. -/
theorem test_decode_dynp : decode (.code12 257) [0x00, 0x01] = .ok (.dynp 0x100) := by rfl
/-- V-K7: code 4095 at size 4096. -/
theorem test_decode_dynp_last : decode (.code12 4096) [0xFF, 0x0F] = .ok (.dynp 0xFFF) := by rfl
/-- V-K3. -/
theorem test_decode_badc : decode (.code12 256) [0x00, 0x01] = .ok (.badc 0x100) := by rfl
/-- V-K8. -/
theorem test_decode_badc_last : decode (.code12 4095) [0xFF, 0x0F] = .ok (.badc 0xFFF) := by rfl
/-- R88, the READ0 column. -/
theorem test_decode_rd0Empty : decode .count3Read0 [0, 7, 8, 9] = .ok (.rd0Empty 7 8 9) := by rfl
theorem test_decode_rd0N1 : decode .count3Read0 [1, 7, 8, 9] = .ok (.rd0N1 7 8 9) := by rfl
theorem test_decode_rd0N2 : decode .count3Read0 [2, 7, 8, 9] = .ok (.rd0N2 7 8 9) := by rfl
theorem test_decode_rd0N3 : decode .count3Read0 [3, 7, 8, 9] = .ok (.rd0N3 7 8 9) := by rfl
theorem test_decode_rd0Bad : decode .count3Read0 [4, 7, 8, 9] = .ok (.rd0Bad 4 7 8 9) := by rfl
/-- R88, the READ1 column. -/
theorem test_decode_rd1Stop1 : decode .count3Read1 [0, 7, 8, 9] = .ok (.rd1Stop1 7 8 9) := by rfl
theorem test_decode_rd1Stop2 : decode .count3Read1 [1, 7, 8, 9] = .ok (.rd1Stop2 7 8 9) := by rfl
theorem test_decode_rd1Cont2 : decode .count3Read1 [2, 7, 8, 9] = .ok (.rd1Cont2 7 8 9) := by rfl
theorem test_decode_rd1Cont3 : decode .count3Read1 [3, 7, 8, 9] = .ok (.rd1Cont3 7 8 9) := by rfl
theorem test_decode_rd1Bad : decode .count3Read1 [7, 7, 8, 9] = .ok (.rd1Bad 7 7 8 9) := by rfl
/-- R82's example, V-U1. -/
theorem test_decode_pack3 : decode .pack3 [0x12, 0x34, 0x56] = .ok (.pack3 0x123 0x456) := by rfl
/-- V-U12: each nibble of w1 in its own code. -/
theorem test_decode_pack3_nibbles : decode .pack3 [0x0A, 0xBC, 0xDE] = .ok (.pack3 0x0AB 0xCDE) := by rfl
/-- V-U9's tail with its padding set. -/
theorem test_decode_tail2 : decode .tail2 [0x04, 0x1F] = .ok (.tail2 0x041 0xF) := by rfl
theorem test_decode_delim : decode .delim1 [0x0A] = .ok (.delim 0x0A) := by rfl
/-- R90: bits 31:2 are ignored. -/
theorem test_decode_cmdNone : decode .ctrl32 [0xFC, 0xFF, 0xFF, 0xFF] = .ok (.cmdNone 0x3FFFFFFF) := by rfl
/-- V-C2, V-C6. -/
theorem test_decode_cmdStart : decode .ctrl32 [0x01, 0x00, 0x00, 0x00] = .ok (.cmdStart 0) := by rfl
/-- V-C5: SRST wins. -/
theorem test_decode_cmdSrst : decode .ctrl32 [0x03, 0x00, 0x00, 0x80] = .ok (.cmdSrst 0x20000000 true) := by rfl
theorem test_decode_rejects_length : decode .pack3 [0x12, 0x34] = .error .wrongLength := by rfl
theorem test_decode_rejects_count : decode .count3Read0 [8, 0, 0, 0] = .error .countTooWide := by rfl
theorem test_decode_rejects_code : decode (.code12 256) [0, 0x10] = .error .codeTooWide := by rfl
/-- R83's packings. -/
theorem test_encode_pair : encode (.pack3 0x100 0x102) = [0x10, 0x01, 0x02] := by rfl
theorem test_encode_tail : encode (.tail2 0x021 0) = [0x02, 0x10] := by rfl
/-- A table word: w0 in bits 23:16, w2 in bits 7:0. -/
theorem test_table_pack3 : decodeTableWord 24 0x041042 = some (.pack3 0x041 0x042) := by rfl
theorem test_table_tail2 : decodeTableWord 16 0xF210 = some (.tail2 0xF21 0) := by rfl

/-! ### Small states -/

/-- A state of a run with the given controller state, trailing count, windows and dynamic slots. -/
def at_ (st : Ctrl) (n : BitVec 3) (W0 W1 : Window) (dict : Dict) : State :=
  { State.reset with st := st, n := n, W0 := W0, W1 := W1, size := BitVec.ofNat 13 (256 + dict.length), dict := dict }

/-- The state a step leaves. -/
def after (s : State) : State :=
  match step s with
  | .next t => t
  | .fault _ => s
  | .refused _ => s

/-- The state an instruction leaves. -/
def ran (i : Instr) (s : State) : State :=
  match exec i s with
  | .next t => t
  | .fault _ => s
  | .refused _ => s

/-- The window `04 10 42` of the vectors: codes 0x041 and 0x042. -/
def w : Window := ⟨0x04, 0x10, 0x42⟩

/-- V-D3's and V-D4's dictionaries. -/
def d257 : Dict := [(256, [0x41, 0x41])]
def d258 : Dict := [(256, [0x41, 0x42]), (257, [0x42, 0x42])]

/-- At CODE1 with n = 3 and 256, 257 or 258 entries; at CODE2; at READ0 after START; at READ1. -/
def c256 : State := at_ .code1 3 w ⟨1, 2, 3⟩ []
def c257 : State := at_ .code1 3 w ⟨1, 2, 3⟩ d257
def c258 : State := at_ .code1 3 w ⟨1, 2, 3⟩ d258
def cTail : State := at_ .code1 0 w ⟨0, 0, 0⟩ []
def cStop2 : State := at_ .code1 1 w ⟨0x0A, 0, 0⟩ []
def second : State := at_ .code2 3 w ⟨1, 2, 3⟩ d257
def second1 : State := at_ .code2 1 w ⟨0x0A, 0, 0⟩ d257
def r0 : State := { startRun State.reset with stream := some [0x04, 0x10, 0x42, 0x0A] }
def r1 : State := at_ .read1 0 w ⟨0, 0, 0⟩ []
def fin : State := at_ .done 0 w ⟨0, 0, 0⟩ d257
def err : State := raiseError .invalidCode 0x100 c256

/-- A full dictionary: 4096 entries. -/
def dFull : Dict := (List.range' 256 3840).map fun k => (k, [0x41, 0x41])
def cFull : State := { State.reset with st := .code1, n := 3, W0 := w, W1 := ⟨1, 2, 3⟩, size := 4096, dict := dFull }

/-- At CODE1 with code 256 and room for one of its two bytes, and the same step waiting with that byte sent. -/
def cRoom : State := { at_ .code1 3 ⟨0x10, 0, 0⟩ ⟨1, 2, 3⟩ d257 with room := some 1 }
def cSent : State := { cRoom with out := [0x41], outCount := 1, sent := 1, room := some 0 }

/-! ### Single steps -/

/-- V-K1. -/
theorem test_lit : ran (.lit 0) c256 =
    { c256 with st := .code2, size := 257, dict := [(256, [0, 0])], out := [0], outCount := 1, codeCount := 1 } := by rfl
/-- V-D3: the patch and the append of a literal. -/
theorem test_lit_patches : (ran (.lit 0x42) c257).dict = d258 := by rfl
/-- V-D4, V-K5. -/
theorem test_dynf : (ran (.dynf 0x100) c258).dict =
    [(256, [0x41, 0x42]), (257, [0x42, 0x41]), (258, [0x41, 0x42, 0x41])] ∧
    (ran (.dynf 0x100) c258).out = [0x41, 0x42] := by decide
/-- V-K4, V-K9. -/
theorem test_dynp : (ran (.dynp 0x100) c257).dict = [(256, [0x41, 0x41]), (257, [0x41, 0x41, 0x41])] ∧
    (ran (.dynp 0x100) c257).out = [0x41, 0x41] := by decide
/-- R63: the step gives the host the one byte it accepts and waits. -/
theorem test_waits_for_each_byte : after cRoom = cSent := by rfl
/-- R63: once the host accepts again the step goes on with the second byte. -/
theorem test_goes_on : (after { cSent with room := some 1 }).out = [0x41, 0x41] ∧
    (after { cSent with room := some 1 }).outCount = 2 ∧ (after { cSent with room := some 1 }).st = .code2 := by decide
/-- V-K3, V-L10. -/
theorem test_badc : ran (.badc 0x100) c256 = { c256 with st := .error, errCode := 1, errInfo := 0x01000100 } := by rfl
/-- V-K6: one past the provisional entry. -/
theorem test_badc_past_provisional : (ran (.badc 0x101) c257).errInfo = 0x01010101 := by rfl
/-- V-L1. -/
theorem test_rd0Empty : ran (.rd0Empty 1 2 3) r0 = { r0 with st := .done } := by rfl
/-- V-L2: lane 1 is zero-filled. -/
theorem test_rd0N1 : ran (.rd0N1 0x05 0xFF 0xFF) r0 = { r0 with st := .read1, W0 := ⟨5, 0, 0⟩, inCount := 1 } := by rfl
theorem test_rd0N2 : ran (.rd0N2 0x04 0x10 0xFF) r0 =
    { r0 with st := .read1, W0 := ⟨4, 0x10, 0⟩, inCount := 2 } := by rfl
/-- P1's first step. -/
theorem test_rd0N3 : ran (.rd0N3 0x04 0x10 0x42) r0 = { r0 with st := .read1, W0 := w, inCount := 3 } := by rfl
/-- V-E4. -/
theorem test_rd0Bad : ran (.rd0Bad 4 1 2 3) r0 = { r0 with st := .error, errCode := 2, errInfo := 0x01000004 } := by rfl
theorem test_rd1Stop1 : ran (.rd1Stop1 1 2 3) r1 = { r1 with st := .code1, W1 := ⟨0, 0, 0⟩, n := 0 } := by rfl
theorem test_rd1Stop2 : ran (.rd1Stop2 0x0A 2 3) r1 =
    { r1 with st := .code1, W1 := ⟨0x0A, 0, 0⟩, n := 1, inCount := 1 } := by rfl
theorem test_rd1Cont2 : ran (.rd1Cont2 1 2 3) r1 =
    { r1 with st := .code1, W1 := ⟨1, 2, 0⟩, n := 2, inCount := 2 } := by rfl
theorem test_rd1Cont3 : ran (.rd1Cont3 1 2 3) r1 =
    { r1 with st := .code1, W1 := ⟨1, 2, 3⟩, n := 3, inCount := 3 } := by rfl
/-- V-E5. -/
theorem test_rd1Bad : ran (.rd1Bad 7 1 2 3) r1 = { r1 with st := .error, errCode := 2, errInfo := 0x01000007 } := by rfl
/-- P1's two code steps of its first window: `41 42`, then W0 <- W1. -/
theorem test_pack3 : (ran (.pack3 0x041 0x042) c256).out = [0x41, 0x42] ∧
    (ran (.pack3 0x041 0x042) c256).W0 = ⟨1, 2, 3⟩ ∧ (ran (.pack3 0x041 0x042) c256).dict = d258 := by decide
/-- V-E2: the second code fails; the first stands. -/
theorem test_pack3_second_fails : (ran (.pack3 0x041 0x12C) c256).errInfo = 0x0101012C ∧
    (ran (.pack3 0x041 0x12C) c256).out = [0x41] := by decide
/-- V-L3. -/
theorem test_tail2 : (ran (.tail2 0x041 0xF) cTail).st = .done ∧ (ran (.tail2 0x041 0xF) cTail).out = [0x41] := by decide
theorem test_delim : ran (.delim 0x0A) r1 = { r1 with st := .code1, W1 := ⟨0x0A, 0, 0⟩, n := 1, inCount := 1 } := by rfl
/-- V-C7. -/
theorem test_cmdNone : exec (.cmdNone 0) fin = .next fin := by rfl
/-- V-C11: START after an error. -/
theorem test_cmdStart : ran (.cmdStart 0) err =
    { err with st := .read0, W0 := ⟨0, 0, 0⟩, W1 := ⟨0, 0, 0⟩, n := 0, errCode := 0, errInfo := 0 } := by rfl
/-- V-C3. -/
theorem test_cmdStart_busy : exec (.cmdStart 0) second = .next second := by rfl
/-- V-C4. -/
theorem test_cmdSrst : regWord 0x04 (ran (.cmdSrst 0 false) r1) = 0 ∧ regWord 0x08 (ran (.cmdSrst 0 false) r1) = 0x100 := by
  decide
/-- V-L10's STATUS: STATE 6, ERR and ERR_CODE 1. -/
theorem test_status_error : regWord 0x04 err = 0x126 := by decide
/-- V-C2's STATUS, and V-C9: an unmapped offset reads 0. -/
theorem test_status_read0 : regWord 0x04 r0 = 0x09 ∧ regWord 0x20 r0 = 0 := by decide
/-- R64: a host's read of DICT_SIZE, as one step. -/
theorem test_host_read : (after { fin with turns := [.host (.read (.csr 8) 4)] }).readLog = [0x101] := by decide

/-! ### Hypotheses are met: states of the invariant -/

theorem withinBound_of_short {e : Entry} (h : e.length ≤ 3841) : WithinBound e := by
  intro m hm
  simp only [Config.maxEntryLen, Option.map_eq_some_iff] at hm
  omega

theorem accepts_all {s : State} {e : Entry} (h : s.room = none) (hs : s.sent < e.length) : Accepts s e :=
  ⟨hs, fun k hk => by rw [h] at hk; cases hk⟩

/-- A small state of a run meets the invariant when what the invariant asks for can be read off it. -/
theorem inv_of_small {s : State} (hsize : 256 ≤ s.size.toNat ∧ s.size.toNat ≤ 4096)
    (hkeys : s.dict.map Prod.fst = List.range' 256 (s.size.toNat - 256))
    (hlen : ∀ p ∈ s.dict, 2 ≤ p.2.length ∧ p.2.length ≤ 3841)
    (hprov : (dictRead s.dict (s.size.toNat - 1)).all (fun e => e.head?.isSome && e.head? == e.getLast?) = true)
    (hn : s.n.toNat ≤ 3 ∧ (s.st = .code2 → s.n ≠ 0#3))
    (hw : (s.n.toNat ≤ 0 → s.W1.b0 = 0) ∧ (s.n.toNat ≤ 1 → s.W1.b1 = 0) ∧ (s.n.toNat ≤ 2 → s.W1.b2 = 0))
    (hst : s.st ≠ .error ∧ s.st ≠ .idle ∧ s.st ≠ .read0) (he : s.errCode = 0 ∧ s.errInfo = 0)
    (hsend : s.sent = 0 ∨ (entryInProgress s).any (fun e => decide (s.sent < e.length)) = true) : Inv s where
  size_low := hsize.1
  size_high := hsize.2
  populated := hkeys
  long := fun p hp => (hlen p hp).1
  bounded := fun p hp => withinBound_of_short (hlen p hp).2
  provisional := by
    intro e _ hr
    rw [hr] at hprov
    simp only [Option.all_some, Bool.and_eq_true, beq_iff_eq, Option.isSome_iff_exists] at hprov
    obtain ⟨⟨b, hb⟩, heq⟩ := hprov
    exact ⟨b, hb, heq ▸ hb⟩
  n_legal := hn.1
  n_second := hn.2
  w1_filled := hw
  no_error := fun _ => he
  error_recorded := fun h => absurd h hst.1
  idle_is_reset := fun h => absurd h hst.2.1
  read0_is_started := fun h => absurd h hst.2.2
  sending := by
    intro h0
    rcases hsend with h | h
    · exact absurd h h0
    · simp only [Option.any_eq_true, decide_eq_true_eq] at h
      exact h

theorem test_inv_c256 : Inv c256 := by apply inv_of_small <;> decide
theorem test_inv_c257 : Inv c257 := by apply inv_of_small <;> decide
theorem test_inv_c258 : Inv c258 := by apply inv_of_small <;> decide
theorem test_inv_cTail : Inv cTail := by apply inv_of_small <;> decide
theorem test_inv_cStop2 : Inv cStop2 := by apply inv_of_small <;> decide
theorem test_inv_second : Inv second := by apply inv_of_small <;> decide
theorem test_inv_second1 : Inv second1 := by apply inv_of_small <;> decide
theorem test_inv_cRoom : Inv cRoom := by apply inv_of_small <;> decide
theorem test_inv_cSent : Inv cSent := by apply inv_of_small <;> decide
theorem test_inv_r1 : Inv r1 := by apply inv_of_small <;> decide
theorem test_inv_fin : Inv fin := by apply inv_of_small <;> decide

/-- A state just after START, with any host side. -/
theorem inv_of_started {s : State} (h : startRun s = s) : Inv s := by
  rw [← h]
  constructor <;> simp [Window.zero]
  rfl

theorem test_inv_r0 : Inv r0 := inv_of_started rfl

theorem test_inv_reset : Inv State.reset := by
  constructor <;> simp [State.reset, Window.zero]
  rfl

theorem test_inv_err : Inv err where
  size_low := by decide
  size_high := by decide
  populated := by decide
  long := by simp [err, c256, at_]
  bounded := by simp [err, c256, at_]
  provisional := by
    intro e h
    exact absurd h (by decide)
  n_legal := by decide
  n_second := by decide
  w1_filled := by decide
  no_error := by decide
  error_recorded := fun _ => ⟨.invalidCode, 0x100, rfl, rfl⟩
  idle_is_reset := by intro h; cases h
  read0_is_started := by intro h; cases h
  sending := by decide

theorem dFull_keys : dFull.map Prod.fst = List.range' 256 3840 := by
  simp [dFull, Function.comp_def]

theorem dFull_entry {p : Nat × Entry} (h : p ∈ dFull) : p.2 = [0x41, 0x41] := by
  simp only [dFull, List.mem_map] at h
  obtain ⟨k, -, rfl⟩ := h
  rfl

theorem dFull_read {k : Nat} (h : 256 ≤ k) (h2 : k < 4096) : dictRead dFull k = some [0x41, 0x41] := by
  obtain ⟨e, he, hm⟩ := dictFind_of_keys dFull_keys h (by omega)
  rw [dictRead_dynamic _ _ h, he]
  exact congrArg some (dFull_entry hm)

theorem test_inv_cFull : Inv cFull := by
  apply inv_of_small
  · decide
  · exact dFull_keys
  · intro p hp
    rw [dFull_entry hp]
    decide
  · show (dictRead dFull 4095).all _ = true
    rw [dFull_read (by decide) (by decide)]
    rfl
  all_goals decide

/-! ### Hypotheses are met: one theorem for each statement that has some -/

/-- SRST in a code step with an entry, at CODE1 and CODE2, and with a code that names none. -/
theorem test_witness_SrstResetsTheEngineAndKeepsTheHost :
    (¬ InCodeStep r1) ∧
    (c256.st = .code1 ∧ dictRead c256.dict (unpackCode1 c256.W0).toNat = some [0x41]) ∧
    (second.st = .code2 ∧ dictRead second.dict (unpackCode2 second.W0).toNat = some [0x42]) ∧
    (let s := at_ .code1 3 ⟨0x10, 0, 0⟩ ⟨0, 0, 0⟩ []; s.st = .code1 ∧ s.size.toNat ≤ (unpackCode1 s.W0).toNat) ∧
    (let s := at_ .code2 3 ⟨0, 1, 1⟩ ⟨0, 0, 0⟩ d257; s.st = .code2 ∧ s.size.toNat ≤ (unpackCode2 s.W0).toNat) := by
  unfold InCodeStep
  decide

theorem test_witness_EngineResetIsSrst : { r1 with turns := [.host .reset] }.turns = .host .reset :: [] := rfl

theorem test_witness_StartBeginsARunUnlessBusy :
    (State.reset.st = .idle ∧ fin.st = .done ∧ err.st = .error) ∧
    r0.st = .read0 ∧ r1.st = .read1 ∧ c256.st = .code1 ∧ second.st = .code2 := by decide

/-- The values 2 and 3, 1, and 0xFFFFFFFC written to CTRL. -/
theorem test_witness_CtrlValueSelectsTheCommand :
    accessOffset (.csr 0) 4 = some 0 ∧ (2#32).getLsbD 1 = true ∧ (3#32).getLsbD 1 = true ∧
    ((1#32).getLsbD 1 = false ∧ (1#32).getLsbD 0 = true) ∧
    ((0xFFFFFFFC#32).getLsbD 1 = false ∧ (0xFFFFFFFC#32).getLsbD 0 = false) ∧
    { fin with turns := [.host (.write (.csr 0) 4 3)] }.turns = .host (.write (.csr 0) 4 3) :: [] := by decide

/-- The classes where they meet: 255; 256 at 258; 256 at 257; 256 at 256 and 4095 at 4096. -/
theorem test_witness_CodeClassIsTheConditionOfRuleR87 :
    (255#12).toNat ≤ 255 ∧ (256 ≤ (256#12).toNat ∧ (256#12).toNat + 2 ≤ (258#13).toNat) ∧
    ((256#12).toNat + 1 = (257#13).toNat ∧ 257 ≤ (257#13).toNat) ∧
    ((4095#12).toNat + 1 = (4096#13).toNat ∧ (4096#13).toNat ≤ 4096) ∧
    ((256#13).toNat ≤ (256#12).toNat ∧ 256 ≤ (256#13).toNat) := by decide

theorem test_witness_DecodeOfEncodeIsTheInstruction :
    (Instr.wf (.lit 0) = true ∧ Instr.inFormat (.lit 0) (.code12 256) = true) ∧
    (Instr.wf (.dynf 4094) = true ∧ Instr.inFormat (.dynf 4094) (.code12 4096) = true) ∧
    (Instr.wf (.dynp 4095) = true ∧ Instr.inFormat (.dynp 4095) (.code12 4096) = true) ∧
    (Instr.wf (.badc 256) = true ∧ Instr.inFormat (.badc 256) (.code12 256) = true) ∧
    (Instr.wf (.rd0Bad 4 0 0 0) = true ∧ Instr.inFormat (.rd0Bad 4 0 0 0) .count3Read0 = true) ∧
    (Instr.wf (.rd1Bad 7 0 0 0) = true ∧ Instr.inFormat (.rd1Bad 7 0 0 0) .count3Read1 = true) := by decide

theorem test_witness_EncodeOfDecodeIsTheWord :
    decode (.code12 4096) [0xFE, 0x0F] = .ok (.dynf 0xFFE) ∧
    (∀ size, Format.code12 4096 = .code12 size → 256 ≤ size.toNat ∧ size.toNat ≤ 4096) := by
  refine ⟨rfl, fun size h => ?_⟩
  cases h
  decide

theorem test_witness_ParseOutcomeByTrailingCount : (0#3).toNat = 0 ∧ (1#3).toNat = 1 ∧ (2#3).toNat = 2 ∧
    (3#3).toNat = 3 ∧ 4 ≤ (4#3).toNat ∧ 4 ≤ (7#3).toNat := by decide

theorem test_witness_Read0AtEveryCount : r0.st = .read0 ∧ 4 ≤ (4#3).toNat ∧ 4 ≤ (7#3).toNat := by decide

theorem test_witness_Read1AtEveryCount : r1.st = .read1 ∧ 4 ≤ (4#3).toNat ∧ 4 ≤ (7#3).toNat := by decide

/-- A host with bytes left, at READ0 and READ1, and one that does not answer. -/
theorem test_witness_WellBehavedHostAnswersItsNextBytes :
    (r0.turns = [] ∧ r0.st = .read0 ∧ r0.answers = [] ∧ r0.stream = some [0x04, 0x10, 0x42, 0x0A]) ∧
    (r1.turns = [] ∧ r1.st = .read1 ∧ r1.answers = [] ∧ r1.stream = some []) ∧
    (let s := { r1 with stream := none }; s.turns = [] ∧ s.st = .read1 ∧ s.answers = [] ∧ s.stream = none) := by decide

theorem test_witness_LitEmitsItsByte :
    (Inv c256 ∧ InCodeStep c256 ∧ Accepts c256 [0xFF]) ∧ (Inv second ∧ InCodeStep second ∧ Accepts second [0]) :=
  ⟨⟨test_inv_c256, .inl rfl, accepts_all rfl (by decide)⟩, ⟨test_inv_second, .inr rfl, accepts_all rfl (by decide)⟩⟩

/-- Below a full dictionary and at one, the greatest final code. -/
theorem test_witness_DynfEmitsItsFinalEntry :
    (Inv c258 ∧ InCodeStep c258 ∧ Accepts c258 [0x41, 0x42] ∧ 256 ≤ (256#12).toNat ∧
      (256#12).toNat + 2 ≤ c258.size.toNat ∧ dictRead c258.dict (256#12).toNat = some [0x41, 0x42] ∧
      UpdateFits [0x41, 0x42] ∧ c258.size.toNat < 4096) ∧
    (Inv cFull ∧ InCodeStep cFull ∧ Accepts cFull [0x41, 0x41] ∧ 256 ≤ (4094#12).toNat ∧
      (4094#12).toNat + 2 ≤ cFull.size.toNat ∧ dictRead cFull.dict (4094#12).toNat = some [0x41, 0x41] ∧
      UpdateFits [0x41, 0x41]) :=
  ⟨⟨test_inv_c258, .inl rfl, accepts_all rfl (by decide), by decide, by decide, by decide, updateFits_of_short (by decide), by decide⟩,
    ⟨test_inv_cFull, .inl rfl, accepts_all rfl (by decide), by decide, by decide, dFull_read (by decide) (by decide),
      updateFits_of_short (by decide)⟩⟩

theorem test_witness_DynpEmitsTheProvisionalEntry :
    (Inv c257 ∧ InCodeStep c257 ∧ Accepts c257 [0x41, 0x41] ∧ (256#12).toNat + 1 = c257.size.toNat ∧
      257 ≤ c257.size.toNat ∧ dictRead c257.dict (256#12).toNat = some [0x41, 0x41] ∧
      UpdateFits [0x41, 0x41] ∧ c257.size.toNat < 4096) ∧
    (Inv cFull ∧ InCodeStep cFull ∧ Accepts cFull [0x41, 0x41] ∧ (4095#12).toNat + 1 = cFull.size.toNat ∧
      257 ≤ cFull.size.toNat ∧ dictRead cFull.dict (4095#12).toNat = some [0x41, 0x41] ∧ UpdateFits [0x41, 0x41]) :=
  ⟨⟨test_inv_c257, .inl rfl, accepts_all rfl (by decide), by decide, by decide, by decide, updateFits_of_short (by decide), by decide⟩,
    ⟨test_inv_cFull, .inl rfl, accepts_all rfl (by decide), by decide, by decide, dFull_read (by decide) (by decide),
      updateFits_of_short (by decide)⟩⟩

theorem test_witness_BadcRaisesInvalidCode :
    (c256.n.toNat ≤ 3 ∧ c256.st = .code1 ∧ c256.size.toNat ≤ (256#12).toNat) ∧
    (second1.n.toNat ≤ 3 ∧ second1.st = .code2 ∧ second1.n ≠ 0#3 ∧ second1.size.toNat ≤ (4095#12).toNat) := by decide

/-- Where MAX_ENTRY_LEN is bounded by m, a state of the invariant whose slot 256 holds m bytes. -/
theorem test_witness_CapacityFaultBeforeAnyEffect (m : Nat) (hm : Config.maxEntryLen = some m) :
    ∃ (e : Entry) (s : State), Inv s ∧ InCodeStep s ∧ s.st = .code1 ∧ (256#12).toNat < s.size.toNat ∧
      dictRead s.dict (256#12).toNat = some e ∧ Config.maxEntryLen = some m ∧ m < e.length + 1 := by
  have h2 : 3841 ≤ m := by
    simp only [Config.maxEntryLen, Option.map_eq_some_iff] at hm
    omega
  refine ⟨List.replicate m 0, { c257 with dict := [(256, List.replicate m 0)] }, ?_, .inl rfl, rfl, ?_, rfl, hm, by simp⟩
  case refine_2 =>
    show 256 < c257.size.toNat
    decide
  constructor
  case long => simp only [List.mem_singleton, forall_eq, List.length_replicate]; omega
  case bounded =>
    simp only [List.mem_singleton, forall_eq]
    intro k hk
    rw [hm] at hk
    cases hk
    simp
  case provisional =>
    intro e _ he
    have he : some (List.replicate m (0 : Byte)) = some e := he
    cases he
    refine ⟨0, ?_, ?_⟩
    · rw [List.head?_replicate, if_neg (by omega)]
    · rw [List.getLast?_replicate, if_neg (by omega)]
  case populated =>
    show [256] = List.range' 256 (c257.size.toNat - 256)
    decide
  case idle_is_reset => intro h; cases h
  case read0_is_started => intro h; cases h
  case error_recorded => intro h; cases h
  case sending => intro h; exact absurd rfl h
  all_goals
    simp only []
    decide

/-- No byte accepted, with a literal and a dynamic code; one byte of two accepted; one sent already. -/
theorem test_witness_CodeStepWaitsForTheSink :
    (let s := { c257 with room := some 0 };
      Inv s ∧ InCodeStep s ∧ ((255#12).toNat < s.size.toNat ∧ dictRead s.dict (255#12).toNat = some [255] ∧
        UpdateFits [255] ∧ WaitsAfter s [255] 0) ∧
      ((256#12).toNat < s.size.toNat ∧ dictRead s.dict (256#12).toNat = some [0x41, 0x41] ∧
        UpdateFits [0x41, 0x41] ∧ WaitsAfter s [0x41, 0x41] 0)) ∧
    (Inv cRoom ∧ InCodeStep cRoom ∧ WaitsAfter cRoom [0x41, 0x41] 1) ∧
    (Inv cSent ∧ InCodeStep cSent ∧ (256#12).toNat < cSent.size.toNat ∧
      dictRead cSent.dict (256#12).toNat = some [0x41, 0x41] ∧ WaitsAfter cSent [0x41, 0x41] 0) := by
  refine ⟨⟨by apply inv_of_small <;> decide, .inl rfl,
      ⟨by decide, by decide, updateFits_of_short (by decide), rfl, by decide⟩,
      ⟨by decide, by decide, updateFits_of_short (by decide), rfl, by decide⟩⟩,
    ⟨test_inv_cRoom, .inl rfl, rfl, by decide⟩, ⟨test_inv_cSent, .inl rfl, by decide, by decide, rfl, by decide⟩⟩

theorem test_witness_WaitedStepGoesOnWhereItStopped :
    Inv cRoom ∧ InCodeStep cRoom ∧ (256#12).toNat < cRoom.size.toNat ∧
    dictRead cRoom.dict (256#12).toNat = some [0x41, 0x41] ∧ UpdateFits [0x41, 0x41] ∧ WaitsAfter cRoom [0x41, 0x41] 1 ∧
    exec (classify 256 cRoom.size) cRoom = .next (ran (classify 256 cRoom.size) cRoom) :=
  ⟨test_inv_cRoom, .inl rfl, by decide, by decide, updateFits_of_short (by decide), ⟨rfl, by decide⟩, rfl⟩

/-- The window `04 10 42` at size 256, and its second code against the size the first leaves. -/
theorem test_witness_Pack3RunsBothCodesInOrder :
    Inv c256 ∧ c256.st = .code1 ∧ c256.n ≠ 0#3 ∧ Accepts c256 [0x41] ∧ (0x041#12).toNat < c256.size.toNat ∧
    dictRead c256.dict (0x041#12).toNat = some [0x41] ∧ UpdateFits [0x41] ∧
    (let t1 := ran (.lit 0x41) c256; (0x100#12).toNat < t1.size.toNat ∧
      dictRead t1.dict (0x100#12).toNat = some [0x41, 0x41] ∧ UpdateFits [0x41, 0x41] ∧ Accepts t1 [0x41, 0x41]) :=
  ⟨test_inv_c256, rfl, by decide, accepts_all rfl (by decide), by decide, rfl, updateFits_of_short (by decide), by decide,
    by decide, updateFits_of_short (by decide), accepts_all rfl (by decide)⟩

/-- Trailing count 0, a code that names no entry, a code whose step waits; and, where MAX_ENTRY_LEN is bounded, a code
whose update does not fit: see the witness of CapacityFaultBeforeAnyEffect, whose state is at CODE1. -/
theorem test_witness_Pack3LooksAtCode2OnlyAfterCode1Passes :
    (cTail.st = .code1 ∧ cTail.n = 0#3) ∧ (c256.st = .code1 ∧ c256.size.toNat ≤ (256#12).toNat) ∧
    (cRoom.st = .code1 ∧ dictRead cRoom.dict (256#12).toNat = some [0x41, 0x41] ∧ WaitsAfter cRoom [0x41, 0x41] 1) :=
  ⟨by decide, by decide, by decide, by decide, rfl, by decide⟩

theorem test_witness_Tail2DecodesOneCode :
    Inv cTail ∧ cTail.st = .code1 ∧ cTail.n = 0#3 ∧ Accepts cTail [255] ∧ (255#12).toNat < cTail.size.toNat ∧
    dictRead cTail.dict (255#12).toNat = some [255] ∧ UpdateFits [255] :=
  ⟨test_inv_cTail, rfl, rfl, accepts_all rfl (by decide), by decide, by decide, updateFits_of_short (by decide)⟩

theorem test_witness_DelimArrivesInW1 : r1.st = .read1 := rfl

theorem test_witness_DelimiterByteIsNeverInterpreted :
    (cStop2.n = 1#3 ∧ InCodeStep cStop2 ∧ step cStop2 = .next (after cStop2)) ∧
    (second1.n = 1#3 ∧ InCodeStep second1 ∧ step second1 = .next (after second1)) :=
  ⟨⟨rfl, .inl rfl, rfl⟩, ⟨rfl, .inr rfl, rfl⟩⟩

/-- Stream turns over a whole window, a tail, a lone byte and a first read. -/
theorem test_witness_StreamTurnIsEngineSteps :
    (let s := { c256 with turns := [.stream] }; step s = .next (after s)) ∧
    (let s := { cTail with turns := [.stream] }; step s = .next (after s)) ∧
    (let s := { r1 with turns := [.stream], answers := [⟨1, 0x0A, 0, 0⟩] }; step s = .next (after s)) ∧
    (let s := { r0 with turns := [.stream] }; step s = .next (after s)) := ⟨rfl, rfl, rfl, rfl⟩

/-- A framing error at READ0 and READ1, an invalid code at CODE1 and CODE2. -/
theorem test_witness_ErrorIsEnteredOnlyFromABusyState :
    (let s := { r0 with answers := [⟨4, 0, 0, 0⟩] };
      Inv s ∧ step s = .next (after s) ∧ s.st = .read0 ∧ (after s).st = .error) ∧
    (let s := { r1 with answers := [⟨7, 0, 0, 0⟩] };
      Inv s ∧ step s = .next (after s) ∧ s.st = .read1 ∧ (after s).st = .error) ∧
    (let s := at_ .code1 3 ⟨0x10, 0, 0⟩ ⟨0, 0, 0⟩ [];
      Inv s ∧ step s = .next (after s) ∧ InCodeStep s ∧ (after s).st = .error) ∧
    (let s := at_ .code2 1 ⟨0, 1, 1⟩ ⟨0, 0, 0⟩ d257;
      Inv s ∧ step s = .next (after s) ∧ InCodeStep s ∧ (after s).st = .error) := by
  refine ⟨⟨inv_of_started rfl, rfl, rfl, rfl⟩, ⟨?_, rfl, rfl, rfl⟩, ⟨?_, rfl, .inl rfl, rfl⟩, ⟨?_, rfl, .inr rfl, rfl⟩⟩
  all_goals
    apply inv_of_small <;> decide

/-- A START write in DONE, and an engine reset in ERROR. -/
theorem test_witness_EndedRunIsLeftOnlyByACommand :
    (let s := { fin with turns := [.host (.write (.csr 0) 4 1)] };
      Ended s ∧ step s = .next (after s) ∧ (after s).st ≠ s.st) ∧
    (let s := { err with turns := [.host .reset] }; Ended s ∧ step s = .next (after s) ∧ (after s).st ≠ s.st) :=
  ⟨⟨.inl rfl, rfl, by decide⟩, ⟨.inr rfl, rfl, by decide⟩⟩

theorem test_witness_QuiescentEngineTakesNoStep : State.reset.st = .idle ∧ State.reset.turns = [] ∧ fin.st = .done ∧
    err.st = .error ∧ { err with turns := [.engine] }.turns = .engine :: [] ∧
    { fin with turns := [.stream] }.turns = .stream :: [] := by decide

theorem test_witness_TransitionsAreTheTableOfRuleR140 :
    (∀ rest, c256.turns ≠ .stream :: rest) ∧ step c256 = .next (after c256) ∧ (c256.st, (after c256).st) ∈ transitions :=
  ⟨fun _ h => (List.cons_ne_nil _ _ h.symm).elim, rfl, by decide⟩

/-- Below a full dictionary, with a provisional entry, and at a full one. -/
theorem test_witness_DictUpdateFollowsItsThreeSteps :
    (Inv c256 ∧ (0#12).toNat < c256.size.toNat ∧ dictRead c256.dict (0#12).toNat = some [0]) ∧
    (Inv c257 ∧ (256#12).toNat < c257.size.toNat ∧ dictRead c257.dict (256#12).toNat = some [0x41, 0x41]) ∧
    (Inv cFull ∧ (4095#12).toNat < cFull.size.toNat ∧ dictRead cFull.dict (4095#12).toNat = some [0x41, 0x41]) :=
  ⟨⟨test_inv_c256, by decide, by decide⟩, ⟨test_inv_c257, by decide, by decide⟩,
    ⟨test_inv_cFull, by decide, dFull_read (by decide) (by decide)⟩⟩

theorem test_witness_ExactlyTheSlotsBelowSizeArePopulated :
    Inv c257 ∧ (255 : Nat) < 256 ∧ (256 ≤ 256 ∧ 256 < c257.size.toNat) ∧ c257.size.toNat ≤ 257 :=
  ⟨test_inv_c257, by decide, by decide, by decide⟩

theorem test_witness_DictWritesKeepTheCanonicalForm :
    dictWf d258 = true ∧ (256 : Nat) ≤ 258 ∧ (258 : Nat) < 4096 ∧ Inv c258 :=
  ⟨by decide, by decide, by decide, test_inv_c258⟩

theorem test_witness_CodeCountAgreesWithSizeAndGenerations :
    Inv r0 ∧ CountsAgree r0 ∧ step r0 = .next (after r0) := ⟨test_inv_r0, by unfold CountsAgree; decide, rfl⟩

theorem test_witness_RegisterReadsWhenNotBusy :
    fin.st.busy = false ∧ ∀ off ∈ [0x00, 0x04, 0x08, 0x0C, 0x10, 0x14, 0x18, 0x1C, 0x20, 0x40], off % 4 = 0 ∧
      { fin with turns := [.host (.read (.csr off) 4)] }.turns = .host (.read (.csr off) 4) :: [] := by decide

theorem test_witness_RegisterReadsWhileBusy :
    c257.st.busy = true ∧ ∀ off ∈ [0x00, 0x04, 0x20], off % 4 = 0 ∧
      { c257 with turns := [.host (.read (.csr off) 4)] }.turns = .host (.read (.csr off) 4) :: [] := by decide

/-- A byte access to CTRL, a word access at offset 2, and accesses of both kinds. -/
theorem test_witness_OddAccessesReadZeroAndWriteNothing : (1 ≠ 4 ∨ 0 % 4 ≠ 0) ∧ (4 ≠ 4 ∨ 2 % 4 ≠ 0) ∧
    { fin with turns := [.host (.read (.csr 0) 1)] }.turns = .host (.read (.csr 0) 1) :: [] ∧
    { fin with turns := [.host (.write (.csr 2) 4 1)] }.turns = .host (.write (.csr 2) 4 1) :: [] := by decide

/-- V-C10: a write to DICT_SIZE. -/
theorem test_witness_WritesElsewhereChangeNothing : (8 : Nat) ≠ 0 ∧
    { fin with turns := [.host (.write (.csr 8) 4 0)] }.turns = .host (.write (.csr 8) 4 0) :: [] := by decide

/-- Where the register block does not begin at address 0, an address below it. -/
theorem test_witness_RegistersStandAtCsrBase (h : 0 < Config.csrBase) : ∃ a, a < Config.csrBase := ⟨0, h⟩

/-- A fetched word that decodes, both code steps, both reads, each with its schedule. -/
theorem test_witness_StepRunsTheDecodedInstruction :
    (fetch c256 = .word (.code12 256) [0x41, 0x00] c256 ∧ decode (.code12 256) [0x41, 0x00] = .ok (.lit 0x41)) ∧
    (c256.turns = [] ∧ c256.st = .code1) ∧ ({ second with turns := [.engine] }.turns = .engine :: [] ∧ second.st = .code2) ∧
    (let s := { r0 with answers := [⟨3, 4, 0x10, 0x42⟩] }; s.turns = [] ∧ s.answers = ⟨3, 4, 0x10, 0x42⟩ :: [] ∧ s.st = .read0) ∧
    (let s := { r1 with answers := [⟨0, 0, 0, 0⟩] }; s.turns = [] ∧ s.answers = ⟨0, 0, 0, 0⟩ :: [] ∧ s.st = .read1) :=
  ⟨⟨rfl, rfl⟩, ⟨rfl, rfl⟩, ⟨rfl, rfl⟩, ⟨rfl, rfl, rfl⟩, ⟨rfl, rfl, rfl⟩⟩

theorem test_witness_PlacedWordRunsNext :
    decodeTableWord 3 7 = some (.rd0Bad 7 0 0 0) ∧ decodeTableWord 8 0xFF = some (.delim 0xFF) ∧
    decodeTableWord 16 0x0FFF = some (.badc 0xFFF) ∧ decodeTableWord 16 0xFFFF = some (.tail2 0xFFF 0xF) ∧
    decodeTableWord 24 0xFFFFFF = some (.pack3 0xFFF 0xFFF) ∧ decodeTableWord 32 2 = some (.cmdSrst 0 false) := by decide

theorem test_witness_AcceptedOutputIsNeverWithdrawn : step c256 = .next (after c256) ∧ (after c256).out = [0x41] := ⟨rfl, rfl⟩

theorem test_witness_OutputNeverExceedsWhatTheHostAccepts :
    step cRoom = .next (after cRoom) ∧ cRoom.room = some 1 ∧ (after cRoom).out = [0x41] := ⟨rfl, rfl, by decide⟩

theorem test_witness_OutCountCountsTheOutput : step c256 = .next (after c256) ∧ (after c256).st ≠ .idle ∧
    ((after c256).st = .read0 → c256.st = .read0) := ⟨rfl, by decide, by decide⟩

theorem test_witness_EveryStepKeepsTheInvariant :
    (Inv State.reset ∧ step State.reset = .next (after State.reset)) ∧ (Inv r0 ∧ step r0 = .next (after r0)) ∧
    (Inv r1 ∧ step r1 = .next (after r1)) ∧ (Inv c258 ∧ step c258 = .next (after c258)) ∧
    (Inv second ∧ step second = .next (after second)) ∧ (Inv fin ∧ step fin = .next (after fin)) ∧
    (Inv err ∧ step err = .next (after err)) :=
  ⟨⟨test_inv_reset, rfl⟩, ⟨test_inv_r0, rfl⟩, ⟨test_inv_r1, rfl⟩, ⟨test_inv_c258, rfl⟩, ⟨test_inv_second, rfl⟩,
    ⟨test_inv_fin, rfl⟩, ⟨test_inv_err, rfl⟩⟩

theorem test_witness_NoStepEverStops : Inv cFull := test_inv_cFull

/-- A started run with the four bytes of V-L6, and one with the empty stream. -/
theorem test_witness_EveryRunEndsWithinItsBound :
    (Inv r0 ∧ r0.st = .read0 ∧ WellBehaved r0 [0x04, 0x10, 0x42, 0x0A]) ∧
    (Inv (startRun State.reset) ∧ (startRun State.reset).st = .read0 ∧ WellBehaved (startRun State.reset) []) :=
  ⟨⟨test_inv_r0, rfl, ⟨rfl, rfl, rfl, rfl⟩⟩, ⟨inv_of_started rfl, rfl, ⟨rfl, rfl, rfl, rfl⟩⟩⟩

/-- V-L6 as a run: two reads and two code steps, to DONE. -/
theorem test_witness_DoneRunDecodesTheCodesOfItsLength :
    let t := after (after (after (after r0)))
    Inv r0 ∧ r0.st = .read0 ∧ WellBehaved r0 [0x04, 0x10, 0x42, 0x0A] ∧ RunsTo r0 2 2 t ∧ t.st = .done := by
  refine ⟨test_inv_r0, rfl, ⟨rfl, rfl, rfl, rfl⟩, ?_, rfl⟩
  exact .read (.inl rfl) rfl (.read (.inr rfl) rfl (.code (.inl rfl) rfl (.code (.inr rfl) rfl (.refl _))))

end Sys2Proof.Tests
end

section
/-! The moves of the machine as its counters see them: which shared operation a step runs, and what the operation
does to the output, the size and the counters of rule R30. -/

namespace Sys2Proof.Machine

open Sys2Proof.Safety

/-! ### What a step moves -/

/-- The move leaves the output, the dictionary and the counters of codes, bytes out and generations as they were. -/
structure KeepsDecoded (s t : State) : Prop where
  size : t.size = s.size
  dict : t.dict = s.dict
  codeCount : t.codeCount = s.codeCount
  outCount : t.outCount = s.outCount
  dictGen : t.dictGen = s.dictGen
  sent : t.sent = s.sent
  out : t.out = s.out

theorem KeepsDecoded.refl (s : State) : KeepsDecoded s s := ⟨rfl, rfl, rfl, rfl, rfl, rfl, rfl⟩

theorem KeepsDecoded.trans {s t u : State} (h : KeepsDecoded s t) (k : KeepsDecoded t u) : KeepsDecoded s u :=
  ⟨k.size.trans h.size, k.dict.trans h.dict, k.codeCount.trans h.codeCount, k.outCount.trans h.outCount,
    k.dictGen.trans h.dictGen, k.sent.trans h.sent, k.out.trans h.out⟩

/-- The move from `s` to `t`, by the shared operation it runs. -/
inductive Moved (s t : State) : Prop
  /-- SRST or engine reset (R172, R230). -/
  | reset (h : t = resetEngine s)
  /-- A START that is not ignored (R170, R171). -/
  | start (idle : s.st.busy = false) (h : t = startRun s)
  /-- A wait, a read step, a host access, or a command without effect. -/
  | kept (h : KeepsDecoded s t)
  /-- One code step (R144, R145). -/
  | code (c : Code) (h : codeStep c s = .next t)
  /-- Both code steps of a window (R151). -/
  | codes (c1 c2 : Code) (u : State) (h1 : codeStep c1 s = .next u) (h2 : codeStep c2 u = .next t)

theorem nextAnswer_keepsDecoded {s t : State} {a : Answer} (h : nextAnswer s = some (a, t)) : KeepsDecoded s t := by
  rw [nextAnswer_some h]
  constructor <;> rfl

theorem read0Step_keepsDecoded {k : BitVec 3} {l0 l1 l2 : Byte} {s t : State}
    (h : read0Step k l0 l1 l2 s = .next t) : KeepsDecoded s t := by
  obtain ⟨-, ⟨-, rfl⟩ | ⟨-, rfl⟩ | ⟨-, -, rfl⟩⟩ := read0Step_next h <;> constructor <;> rfl

theorem read1Step_keepsDecoded {k : BitVec 3} {l0 l1 l2 : Byte} {s t : State}
    (h : read1Step k l0 l1 l2 s = .next t) : KeepsDecoded s t := by
  obtain ⟨-, ⟨-, rfl⟩ | ⟨-, rfl⟩⟩ := read1Step_next h <;> constructor <;> rfl

theorem hostRead_keepsDecoded (a : BusAddr) (width : Nat) (s : State) : KeepsDecoded s (hostRead a width s) := by
  obtain ⟨v, d, h⟩ := hostRead_eq a width s
  rw [h]
  constructor <;> rfl

theorem hostAccess_moved (op : HostOp) (s : State) : Moved s (hostAccess op s) := by
  cases op with
  | read a width => exact .kept (hostRead_keepsDecoded a width s)
  | write a width v => exact .kept (.refl s)
  | reset => exact .reset rfl
  | offer x => exact .kept ⟨rfl, rfl, rfl, rfl, rfl, rfl, rfl⟩
  | accept x => exact .kept ⟨rfl, rfl, rfl, rfl, rfl, rfl, rfl⟩

theorem startCommand_moved (s : State) : Moved s (startCommand s) := by
  unfold startCommand
  split
  · exact .kept (.refl s)
  · rename_i hbusy
    exact .start (Bool.eq_false_iff.2 hbusy) rfl

theorem ctrlInstr_moved {v : Word} {s t : State} (h : exec (ctrlInstr v) s = .next t) : Moved s t := by
  rw [exec_ctrlInstr, Host.Outcome.next.injEq] at h
  subst h
  split
  · exact .reset rfl
  · split
    · exact startCommand_moved s
    · exact .kept (.refl s)

/-- What `Runs` runs, by the shared operation. -/
theorem Runs.moved {s t : State} {o : Host.Outcome State Fault Refusal} (hr : Runs s o) (h : o = .next t) :
    Moved s t := by
  cases hr with
  | wait =>
    cases h
    exact .kept (.refl s)
  | read0 a u _ ha => exact .kept ((nextAnswer_keepsDecoded ha).trans (read0Step_keepsDecoded h))
  | read1 a u _ ha => exact .kept ((nextAnswer_keepsDecoded ha).trans (read1Step_keepsDecoded h))
  | lone a u _ ha => exact .kept ((nextAnswer_keepsDecoded ha).trans (read1Step_keepsDecoded h))
  | code1 => exact .code _ h
  | code2 => exact .code _ h
  | window =>
    obtain ⟨-, u, h1, ⟨-, rfl⟩ | ⟨-, h2⟩⟩ := windowStep_next h
    · exact .code _ h1
    · exact .codes _ _ u h1 h2
  | tail =>
    obtain ⟨-, -, h1⟩ := tailStep_next h
    exact .code _ h1
  | access op =>
    cases h
    exact hostAccess_moved op s
  | ctrl v => exact ctrlInstr_moved h

/-- Every step takes its turn from the schedule and then makes one of these moves. -/
theorem step_moved {s t : State} (h : step s = .next t) : Moved (takeTurn s) t := (step_runs s).moved h

/-! ### The code step, by its emission and its update -/

/-- The transition of a code step changes `st` and `W0` only (R144, R145). -/
theorem afterCode_eq (s u : State) : ∃ x w, afterCode s u = { u with st := x, W0 := w } := by
  unfold afterCode
  split
  · split <;> exact ⟨_, _, rfl⟩
  · split <;> exact ⟨_, _, rfl⟩

/-- A code step takes the error exit, or emits some bytes and waits, or emits some bytes and updates the dictionary. -/
theorem codeStep_cases {c : Code} {s t : State} (h : codeStep c s = .next t) :
    (∃ err arg, t = raiseError err arg s) ∨ (∃ p, t = emit p s) ∨
    (∃ p u x w, dictUpdate c (endTransfer (emit p s)) = .ok u ∧
      t = { u with codeCount := u.codeCount + 1, st := x, W0 := w }) := by
  obtain ⟨-, ⟨-, rfl⟩ | ⟨-, -, hp | ⟨v, hp, rfl⟩⟩⟩ := codeStep_next h
  · exact .inl ⟨_, _, rfl⟩
  · obtain ⟨-, rfl⟩ | ⟨e, -, -, -, rfl⟩ | ⟨e, -, -, -, -, rfl⟩ := processCode_ended hp
    · exact .inl ⟨_, _, rfl⟩
    · exact .inl ⟨_, _, rfl⟩
    · exact .inr (.inl ⟨_, rfl⟩)
  · obtain ⟨e, u, -, -, -, -, hu, rfl⟩ := processCode_passed hp
    obtain ⟨x, w, hx⟩ := afterCode_eq s { u with codeCount := u.codeCount + 1 }
    exact .inr (.inr ⟨_, u, x, w, hu, hx⟩)

/-! ### OUT_COUNT and the output -/

/-- Some bytes are appended to the output, and OUT_COUNT counts them (R30). -/
def OutCounted (s t : State) : Prop :=
  ∃ p : List Byte, t.out = s.out ++ p ∧ t.outCount = s.outCount + BitVec.ofNat 32 p.length

theorem OutCounted.of_eq {s t : State} (hout : t.out = s.out) (hcount : t.outCount = s.outCount) :
    OutCounted s t := ⟨[], by simp [hout], by simp [hcount]⟩

theorem OutCounted.trans {s t u : State} (h : OutCounted s t) (k : OutCounted t u) : OutCounted s u := by
  obtain ⟨p, hout, hcount⟩ := h
  obtain ⟨q, kout, kcount⟩ := k
  refine ⟨p ++ q, by rw [kout, hout, List.append_assoc], ?_⟩
  rw [kcount, hcount, List.length_append, BitVec.ofNat_add, BitVec.add_assoc]

theorem OutCounted.outCount_eq {s t : State} (h : OutCounted s t) :
    t.outCount = s.outCount + BitVec.ofNat 32 (t.out.length - s.out.length) := by
  obtain ⟨p, hout, hcount⟩ := h
  rw [hcount, hout, List.length_append, Nat.add_sub_cancel_left]

theorem emit_outCounted (p : Entry) (s : State) : OutCounted s (emit p s) := by
  refine ⟨p.take (acceptedOf s.room p.length), emit_out p s, ?_⟩
  rw [emit_outCount, List.length_take, Nat.min_eq_left (acceptedOf_le _ _)]

theorem dictUpdate_out {c : Code} {s t : State} (h : dictUpdate c s = .ok t) :
    t.out = s.out ∧ t.outCount = s.outCount := by
  rw [dictUpdate_frame h]
  exact ⟨rfl, rfl⟩

theorem codeStep_outCounted {c : Code} {s t : State} (h : codeStep c s = .next t) : OutCounted s t := by
  obtain ⟨err, arg, rfl⟩ | ⟨p, rfl⟩ | ⟨p, u, x, w, hu, rfl⟩ := codeStep_cases h
  · exact .of_eq rfl rfl
  · exact emit_outCounted p s
  · obtain ⟨hout, hcount⟩ := dictUpdate_out hu
    exact (emit_outCounted p s).trans (.of_eq hout hcount)

/-! ### CODE_COUNT, size and DICT_GEN -/

theorem patchStep_size {b : Byte} {s t : State} (h : patchStep b s = .ok t) :
    t.size = s.size ∧ t.dictGen = s.dictGen := by
  obtain ⟨-, rfl⟩ | ⟨-, p, -, -, rfl⟩ := patchStep_ok h <;> exact ⟨rfl, rfl⟩

/-- What an update does to the size and the generations (R105, R106). -/
theorem dictUpdate_size {c : Code} {s t : State} (h : dictUpdate c s = .ok t) :
    (s.size.toNat < 4096 ∧ t.size = s.size + 1 ∧ t.dictGen = s.dictGen) ∨
    (s.size.toNat = 4096 ∧ t.size = 257 ∧ t.dictGen = s.dictGen + 1) := by
  obtain ⟨b, rest, u, -, -, hu, ha⟩ := dictUpdate_ok h
  obtain ⟨hlt, rfl⟩ := appendStep_ok ha
  obtain ⟨hsize, hgen⟩ := patchStep_size hu
  simp only [fullStep_eq, hsize, hgen] at hlt ⊢
  by_cases hfull : s.size.toNat = 4096
  · exact .inr ⟨hfull, by simp [hfull], if_pos hfull⟩
  · rw [if_neg hfull] at hlt ⊢
    exact .inl ⟨hlt, rfl, if_neg hfull⟩

/-- The counters agree as long as CODE_COUNT, size and DICT_GEN stay. -/
theorem countsAgree_of_eq {s t : State} (hc : t.codeCount = s.codeCount) (hs : t.size = s.size)
    (hg : t.dictGen = s.dictGen) (h : CountsAgree s) : CountsAgree t := by
  unfold CountsAgree at *
  rw [hc, hs, hg, h]

/-- An update that is counted keeps the counters in agreement, in a generation and across its end. -/
theorem dictUpdate_countsAgree {c : Code} {s t u : State} (hu : dictUpdate c s = .ok u)
    (hc : t.codeCount = u.codeCount + 1) (hs : t.size = u.size) (hg : t.dictGen = u.dictGen)
    (h : CountsAgree s) : CountsAgree t := by
  have hcount : u.codeCount = s.codeCount := by rw [dictUpdate_frame hu]
  unfold CountsAgree at *
  rw [hc, hs, hg, hcount]
  obtain ⟨hlt, hsize, hgen⟩ | ⟨hfull, hsize, hgen⟩ := dictUpdate_size hu
  · have hgrow : (s.size + 1).setWidth 32 = s.size.setWidth 32 + 1#32 := by bv_omega
    rw [hsize, hgen, hgrow]
    bv_omega
  · have hsize' : s.size = 4096 := BitVec.eq_of_toNat_eq hfull
    rw [hsize'] at h
    rw [hsize, hgen]
    bv_omega

theorem codeStep_countsAgree {c : Code} {s t : State} (h : codeStep c s = .next t) (ha : CountsAgree s) :
    CountsAgree t := by
  obtain ⟨err, arg, rfl⟩ | ⟨p, rfl⟩ | ⟨p, u, x, w, hu, rfl⟩ := codeStep_cases h
  · exact ha
  · exact countsAgree_of_eq (emit_codeCount p s) (emit_size p s) (emit_dictGen p s) ha
  · refine dictUpdate_countsAgree hu rfl rfl rfl ?_
    exact countsAgree_of_eq (emit_codeCount p s) (emit_size p s) (emit_dictGen p s) ha

/-- At the size of a fresh dictionary with CODE_COUNT and DICT_GEN cleared, the counters agree (R43, R170). -/
theorem countsAgree_of_cleared {s : State} (hc : s.codeCount = 0) (hs : s.size = 256) (hg : s.dictGen = 0) :
    CountsAgree s := by
  unfold CountsAgree
  rw [hc, hs, hg]
  decide

/-- Every move keeps the counters in agreement; reset and START make them agree. -/
theorem Moved.countsAgree {s t : State} (hm : Moved s t) (h : CountsAgree s) : CountsAgree t := by
  cases hm with
  | reset ht =>
    subst ht
    exact countsAgree_of_cleared rfl rfl rfl
  | start _ ht =>
    subst ht
    exact countsAgree_of_cleared rfl rfl rfl
  | kept hk => exact countsAgree_of_eq hk.codeCount hk.size hk.dictGen h
  | code c hc => exact codeStep_countsAgree hc h
  | codes c1 c2 u h1 h2 => exact codeStep_countsAgree h2 (codeStep_countsAgree h1 h)

/-- Every move but START and a reset appends to the output what OUT_COUNT counts. -/
theorem Moved.outCounted {s t : State} (hm : Moved s t) (hidle : t.st ≠ .idle)
    (hstart : t.st = .read0 → s.st = .read0) : OutCounted s t := by
  cases hm with
  | reset ht =>
    subst ht
    exact absurd rfl hidle
  | start hbusy ht =>
    subst ht
    simp [hstart rfl, Ctrl.busy] at hbusy
  | kept hk => exact .of_eq hk.out hk.outCount
  | code c hc => exact codeStep_outCounted hc
  | codes c1 c2 u h1 h2 => exact (codeStep_outCounted h1).trans (codeStep_outCounted h2)

end Sys2Proof.Machine
end

section
/-! The statements of 10_state.md. -/

namespace Sys2Proof

open Sys2Proof.Machine Sys2Proof.Safety

/-- Settles O38, by the laws of the dictionary table. -/
theorem dictWritesKeepTheCanonicalForm : Obligations.DictWritesKeepTheCanonicalForm := by
  refine ⟨fun d slot e h hs => dictWrite_wf e h hs, fun d slot k e _ hs => dictRead_write d slot k e hs, ?_⟩
  intro s hs
  exact dictWf_of_keys hs.populated (by have := hs.size_high; omega)

/-- Settles O39, by the shared operation each step runs. -/
theorem codeCountAgreesWithSizeAndGenerations : Obligations.CodeCountAgreesWithSizeAndGenerations :=
  ⟨countsAgree_of_cleared rfl rfl rfl, fun s _ _ h hstep => (step_moved hstep).countsAgree (s := takeTurn s) h⟩

/-- Settles O50, by the shared operation each step runs. -/
theorem outCountCountsTheOutput : Obligations.OutCountCountsTheOutput := fun s _ hstep hidle hstart =>
  ((step_moved hstep).outCounted (s := takeTurn s) hidle hstart).outCount_eq

/-- Settles O1, by the values of State.reset and the laws of DictRead. -/
theorem resetStateIsTheTableOfRuleR43 : Obligations.ResetStateIsTheTableOfRuleR43 := by
  refine ⟨rfl, rfl, rfl, rfl, rfl, fun k hk => dictRead_literal _ k hk, ?_,
    rfl, rfl, rfl, rfl, rfl, rfl, rfl, rfl, rfl, rfl⟩
  intro k hk
  rw [dictRead_dynamic _ k hk]
  rfl

/-- Settles O51: the dictionary is empty, no byte is sent, and in IDLE every field is as reset leaves it. -/
theorem resetStateMeetsTheInvariant : Obligations.ResetStateMeetsTheInvariant where
  size_low := by decide
  size_high := by decide
  populated := rfl
  long := fun _ hp => absurd hp List.not_mem_nil
  bounded := fun _ hp => absurd hp List.not_mem_nil
  provisional := fun _ hs => absurd hs (by decide)
  n_legal := by decide
  n_second := fun hst => absurd hst (by decide)
  w1_filled := ⟨fun _ => rfl, fun _ => rfl, fun _ => rfl⟩
  no_error := fun _ => ⟨rfl, rfl⟩
  error_recorded := fun hst => absurd hst (by decide)
  idle_is_reset := fun _ => rfl
  read0_is_started := fun hst => absurd hst (by decide)
  sending := fun hs => absurd rfl hs

end Sys2Proof
end

section
/-! What the host's port takes: the bytes a move appends to the output are bytes the host accepts. And a code step
that waits for the host, and how it goes on. -/

namespace Sys2Proof.Machine

open Sys2Proof.Safety

/-! ### Output and room -/

theorem acceptedOf_le_room {room : Option Nat} {k : Nat} (h : room = some k) (len : Nat) :
    acceptedOf room len ≤ k := by
  subst h
  exact Nat.min_le_left k len

/-- A host that accepts `k` more bytes than `room` takes `k` bytes and then as many as with `room`. -/
theorem acceptedOf_add (room : Option Nat) {k len : Nat} (h : k ≤ len) :
    acceptedOf (room.map (· + k)) len = k + acceptedOf room (len - k) := by
  cases room with
  | none => exact (Nat.add_sub_cancel' h).symm
  | some j =>
    show min (j + k) len = k + min j (len - k)
    omega

/-- Bytes are appended to the output, no more than the host accepts, and it accepts so many fewer (R63). -/
def OutAccepted (s t : State) : Prop :=
  ∃ p : List Byte, t.out = s.out ++ p ∧ t.room = s.room.map (· - p.length) ∧ ∀ k, s.room = some k → p.length ≤ k

theorem OutAccepted.of_eq {s t : State} (hout : t.out = s.out) (hroom : t.room = s.room) : OutAccepted s t :=
  ⟨[], by simp [hout], by simp [hroom], fun _ _ => Nat.zero_le _⟩

theorem OutAccepted.trans {s t u : State} (h : OutAccepted s t) (k : OutAccepted t u) : OutAccepted s u := by
  obtain ⟨p, hout, hroom, hp⟩ := h
  obtain ⟨q, kout, kroom, hq⟩ := k
  refine ⟨p ++ q, by rw [kout, hout, List.append_assoc], ?_, ?_⟩
  · simp [kroom, hroom, Function.comp_def, Nat.sub_sub]
  · intro j hj
    have hpj : p.length ≤ j := hp j hj
    have hqj : q.length ≤ j - p.length := hq _ (by rw [hroom, hj]; rfl)
    rw [List.length_append]
    omega

theorem emit_outAccepted (e : Entry) (s : State) : OutAccepted s (emit e s) := by
  have hlen : (e.take (acceptedOf s.room e.length)).length = acceptedOf s.room e.length := by
    rw [List.length_take, Nat.min_eq_left (acceptedOf_le _ _)]
  exact ⟨_, emit_out e s, by rw [emit_room, hlen], fun k hk => hlen.le.trans (acceptedOf_le_room hk _)⟩

theorem dictUpdate_outAccepted {c : Code} {s t : State} (h : dictUpdate c s = .ok t) : OutAccepted s t := by
  rw [dictUpdate_frame h]
  exact .of_eq rfl rfl

theorem codeStep_outAccepted {c : Code} {s t : State} (h : codeStep c s = .next t) : OutAccepted s t := by
  obtain ⟨err, arg, rfl⟩ | ⟨p, rfl⟩ | ⟨p, u, x, w, hu, rfl⟩ := codeStep_cases h
  · exact .of_eq rfl rfl
  · exact emit_outAccepted p s
  · have hend : OutAccepted s (endTransfer (emit p s)) := (emit_outAccepted p s).trans (.of_eq rfl rfl)
    exact (hend.trans (dictUpdate_outAccepted hu)).trans (.of_eq rfl rfl)

/-- What a reset leaves of an entry cut short are bytes the host accepts (R63, R172). -/
theorem resetEngine_outAccepted (s : State) : OutAccepted s (resetEngine s) := by
  have hcut : OutAccepted s (cutOutput s) := by
    obtain ⟨-, h⟩ | ⟨e, k, -, hk, h⟩ := cutOutput_cases s
    · exact .of_eq (by rw [h]) (by rw [h])
    · have hlen : ((e.drop s.sent).take k).length = k := by
        rw [List.length_take, List.length_drop, Nat.min_eq_left (hk.trans (acceptedOf_le _ _))]
      rw [h]
      exact ⟨_, cutAfter_out k e s, by rw [cutAfter_room, hlen],
        fun j hj => hlen.le.trans (hk.trans (acceptedOf_le_room hj _))⟩
  exact hcut.trans (.of_eq rfl rfl)

/-- Bytes are appended to the output, no more than the host accepted before (R63); what it accepts from now on may be
any number, as after a host turn that sets it. -/
def OutExtended (s t : State) : Prop :=
  ∃ p : List Byte, t.out = s.out ++ p ∧ ∀ k, s.room = some k → p.length ≤ k

theorem OutAccepted.extended {s t : State} (h : OutAccepted s t) : OutExtended s t := by
  obtain ⟨p, hout, -, hp⟩ := h
  exact ⟨p, hout, hp⟩

theorem Moved.outExtended {s t : State} (hm : Moved s t) : OutExtended s t := by
  cases hm with
  | reset ht =>
    subst ht
    exact (resetEngine_outAccepted s).extended
  | start _ ht =>
    subst ht
    exact (OutAccepted.of_eq rfl rfl).extended
  | kept hk => exact ⟨[], by simp [hk.out], fun _ _ => Nat.zero_le _⟩
  | code c hc => exact (codeStep_outAccepted hc).extended
  | codes c1 c2 u h1 h2 => exact ((codeStep_outAccepted h1).trans (codeStep_outAccepted h2)).extended

theorem step_outExtended {s t : State} (h : step s = .next t) : OutExtended s t :=
  (step_moved h).outExtended (s := takeTurn s)

/-! ### The code step that waits -/

/-- The state of a step on the entry `e` that waits after `k` more bytes of it (R63, R141). -/
def waited (e : Entry) (k : Nat) (s : State) : State :=
  { s with
    out := s.out ++ (e.drop s.sent).take k, outCount := s.outCount + BitVec.ofNat 32 k,
    sent := s.sent + k, room := some 0 }

/-- The instructions of a populated code all run the code step with it (R147 to R149). -/
theorem exec_populated {c : Code} {i : Instr} (s : State)
    (h : (i = .lit (c.setWidth 8) ∧ c.toNat < 256) ∨ i = .dynf c ∨ i = .dynp c) : exec i s = codeStep c s := by
  obtain ⟨rfl, hc⟩ | rfl | rfl := h
  · have hlit : classify c s.size = .lit (c.setWidth 8) := if_pos hc
    rw [← hlit, exec_classify]
  · rfl
  · rfl

/-- In a state of the invariant both code steps find their code (R120, R140). -/
theorem codeStep_enabled {s : State} (hinv : Inv s) (hst : InCodeStep s) :
    s.st = .code1 ∨ (s.st = .code2 ∧ s.n ≠ 0#3) :=
  hst.imp id fun h => ⟨h, hinv.n_second h⟩

/-- A populated code whose update fits passes the checks, and its step emits what is left of the entry (R146). -/
theorem codeStep_emits {c : Code} {e : Entry} {s : State} (hst : s.st = .code1 ∨ (s.st = .code2 ∧ s.n ≠ 0#3))
    (hn : s.n.toNat ≤ 3) (hc : c.toNat < s.size.toNat) (hr : dictRead s.dict c.toNat = some e) (hf : UpdateFits e) :
    codeStep c s = (afterEmission c e (emit (e.drop s.sent) s)).andThen (afterCode s) := by
  have hp : processCode c s = afterEmission c e (emit (e.drop s.sent) s) := by
    unfold processCode
    rw [if_neg (by omega), hr]
    exact if_pos ((entryFits_iff e).2 hf)
  rw [codeStep_eq c hst hn, hp]

/-- A code step whose host does not accept the whole entry stops after the bytes it does accept. -/
theorem codeStep_waits {c : Code} {e : Entry} {k : Nat} {s : State} (hinv : Inv s) (hst : InCodeStep s)
    (hc : c.toNat < s.size.toNat) (hr : dictRead s.dict c.toNat = some e) (hf : UpdateFits e)
    (hw : WaitsAfter s e k) : codeStep c s = .next (waited e k s) := by
  have hemit : emit (e.drop s.sent) s = waited e k s := emit_waits hw
  have hshort : ¬ e.length ≤ (waited e k s).sent := Nat.not_le.2 hw.2
  rw [codeStep_emits (codeStep_enabled hinv hst) hinv.n_legal hc hr hf, hemit, afterEmission, if_neg hshort]
  rfl

/-- Emitting the rest of an entry after a wait of `k` bytes is emitting it with `k` more bytes accepted (R63, R66). -/
theorem emit_waited {e : Entry} {k : Nat} {s : State} (room : Option Nat) (hk : s.sent + k < e.length) :
    emit (e.drop (s.sent + k)) { waited e k s with room := room } =
      emit (e.drop s.sent) { s with room := room.map (· + k) } := by
  have hacc : acceptedOf (room.map (· + k)) (e.drop s.sent).length =
      k + acceptedOf room (e.drop (s.sent + k)).length := by
    rw [acceptedOf_add room (by rw [List.length_drop]; omega), List.length_drop, List.length_drop, Nat.sub_sub]
  have hroom (j : Nat) : (room.map (· + k)).map (· - (k + j)) = room.map (· - j) := by
    cases room with
    | none => rfl
    | some l =>
      show some (l + k - (k + j)) = some (l - j)
      rw [Nat.add_comm l k, Nat.add_sub_add_left]
  simp only [emit_eq, waited, hacc, hroom, List.take_add, List.drop_drop, List.append_assoc, BitVec.ofNat_add,
    BitVec.add_assoc, Nat.add_assoc]

/-- A code step that goes on after a wait does what it would have done with all those bytes accepted at first. -/
theorem codeStep_waited {c : Code} {e : Entry} {k : Nat} {s : State} (room : Option Nat) (hinv : Inv s)
    (hst : InCodeStep s) (hc : c.toNat < s.size.toNat) (hr : dictRead s.dict c.toNat = some e) (hf : UpdateFits e)
    (hw : WaitsAfter s e k) :
    codeStep c { waited e k s with room := room } = codeStep c { s with room := room.map (· + k) } := by
  have hst' := codeStep_enabled hinv hst
  rw [codeStep_emits (s := { waited e k s with room := room }) hst' hinv.n_legal hc hr hf,
    codeStep_emits (s := { s with room := room.map (· + k) }) hst' hinv.n_legal hc hr hf,
    ← emit_waited room hw.2]
  rfl

end Sys2Proof.Machine
end

section
/-! The host's register accesses: an access depends on its address through the offset it acts on (R64). -/

namespace Sys2Proof.Machine

/-- A host's read is one access and nothing else. -/
theorem step_hostRead {s : State} {a : BusAddr} {width : Nat} {rest : List Turn}
    (h : s.turns = .host (.read a width) :: rest) : step s = .next (hostRead a width { s with turns := rest }) := by
  simp only [step_eq_outcomeOf, fetch, h, hostFetch, outcomeOf, hostAccess]

/-- A host's write is a command at offset 0 and changes nothing anywhere else (R90, R176). -/
theorem step_hostWrite {s : State} {a : BusAddr} {width : Nat} {v : Word} {rest : List Turn}
    (h : s.turns = .host (.write a width v) :: rest) :
    step s = if accessOffset a width = some 0 then exec (ctrlInstr v) { s with turns := rest }
      else .next { s with turns := rest } := by
  simp only [step_eq_outcomeOf, fetch, h, hostFetch]
  split
  · simp only [outcomeOf, decode_ctrl]
  · rfl

theorem hostRead_congr {a b : BusAddr} {width : Nat} (h : accessOffset a width = accessOffset b width) (s : State) :
    hostRead a width s = hostRead b width s := by
  unfold hostRead
  rw [h]

/-- A read that acts on no offset returns 0. -/
theorem step_hostRead_nowhere {s : State} {a : BusAddr} {width : Nat} {rest : List Turn}
    (h : s.turns = .host (.read a width) :: rest) (ha : accessOffset a width = none) :
    step s = .next { s with turns := rest, readLog := s.readLog ++ [0] } := by
  rw [step_hostRead h, hostRead, ha]

/-- A write that acts on no offset changes nothing. -/
theorem step_hostWrite_nowhere {s : State} {a : BusAddr} {width : Nat} {v : Word} {rest : List Turn}
    (h : s.turns = .host (.write a width v) :: rest) (ha : accessOffset a width = none) :
    step s = .next { s with turns := rest } := by
  rw [step_hostWrite h, ha, if_neg (by simp)]

/-- Only a whole aligned word acts (R64). -/
theorem accessOffset_csr_odd {off width : Nat} (h : width ≠ 4 ∨ off % 4 ≠ 0) :
    accessOffset (.csr off) width = none :=
  if_neg fun ⟨hw, ho⟩ => h.elim (· hw) (· ho)

theorem accessOffset_bus_at (off width : Nat) :
    accessOffset (.bus (Config.csrBase + off)) width = accessOffset (.csr off) width := by
  have hoff : BusAddr.offset (.bus (Config.csrBase + off)) = some off := by
    rw [BusAddr.offset, if_pos (Nat.le_add_right _ _), Nat.add_sub_cancel_left]
  rw [accessOffset, hoff]
  rfl

theorem accessOffset_bus_below {a : Nat} (h : a < Config.csrBase) (width : Nat) :
    accessOffset (.bus a) width = none := by
  have hoff : BusAddr.offset (.bus a) = none := if_neg (Nat.not_le.2 h)
  rw [accessOffset, hoff]

end Sys2Proof.Machine
end

section
/-! The statements of 20_memory.md. -/

namespace Sys2Proof

open Sys2Proof.Machine Sys2Proof.Safety

/-- Settles O23: the step stops inside the emission, after the bytes the host accepts. -/
theorem codeStepWaitsForTheSink : Obligations.CodeStepWaitsForTheSink := by
  intro c e k s hinv hst hc hr hf hw i hi
  rw [exec_populated s hi]
  exact codeStep_waits hinv hst hc hr hf hw

/-- Settles O24: the emission cut in two is the emission in one. -/
theorem waitedStepGoesOnWhereItStopped : Obligations.WaitedStepGoesOnWhereItStopped := by
  intro c e k room s t hinv hst hc hr hf hw hstep
  rw [exec_classify, codeStep_waits hinv hst hc hr hf hw, Host.Outcome.next.injEq] at hstep
  subst hstep
  rw [exec_classify, exec_classify]
  exact codeStep_waited room hinv hst hc hr hf hw

/-- Settles O48: every move appends to the output. -/
theorem acceptedOutputIsNeverWithdrawn : Obligations.AcceptedOutputIsNeverWithdrawn := by
  intro s t hstep
  obtain ⟨p, hout, -⟩ := step_outExtended hstep
  exact ⟨p, hout.symm⟩

/-- Settles O49: what a move appends, the host accepts. -/
theorem outputNeverExceedsWhatTheHostAccepts : Obligations.OutputNeverExceedsWhatTheHostAccepts := by
  intro s t k hstep hroom
  obtain ⟨p, hout, hp⟩ := step_outExtended hstep
  rw [hout, List.length_append]
  exact Nat.add_le_add_left (hp k hroom) _

/-- Settles O42: such an access acts on no offset. -/
theorem oddAccessesReadZeroAndWriteNothing : Obligations.OddAccessesReadZeroAndWriteNothing :=
  fun _ _ _ _ _ hodd => ⟨fun h => step_hostRead_nowhere h (accessOffset_csr_odd hodd),
    fun h => step_hostWrite_nowhere h (accessOffset_csr_odd hodd)⟩

/-- Settles O44: the two addresses act on the same offset, and one below CSR_BASE on none. -/
theorem registersStandAtCsrBase : Obligations.RegistersStandAtCsrBase := by
  intro s rest off width v
  refine ⟨?_, ?_, fun a ha => ⟨?_, ?_⟩⟩
  · rw [step_hostRead rfl, step_hostRead rfl, hostRead_congr (accessOffset_bus_at off width)]
  · rw [step_hostWrite rfl, step_hostWrite rfl, accessOffset_bus_at]
  · exact step_hostRead_nowhere rfl (accessOffset_bus_below ha width)
  · exact step_hostWrite_nowhere rfl (accessOffset_bus_below ha width)

end Sys2Proof
end

section
/-! Windows and codes by arithmetic: the formulas of rules R81 to R83, from which the fields and the inverses
follow. -/

namespace Sys2Proof

/-! ### Bit fields side by side -/

/-- Two bit fields side by side are the upper one shifted plus the lower one. -/
theorem toNat_or_eq_mul_add {n i high low : Nat} {x y : BitVec n} (hx : x.toNat = high * 2 ^ i)
    (hy : y.toNat = low) (hlow : low < 2 ^ i) : (x ||| y).toNat = high * 2 ^ i + low := by
  rw [BitVec.toNat_or, hx, hy, ← Nat.shiftLeft_eq, Nat.shiftLeft_add_eq_or_of_lt hlow]

theorem toNat_append_eq_mul_add {m n : Nat} (high : BitVec m) (low : BitVec n) :
    (high ++ low).toNat = high.toNat * 2 ^ n + low.toNat := by
  rw [BitVec.toNat_append, ← Nat.shiftLeft_add_eq_or_of_lt low.isLt, Nat.shiftLeft_eq]

theorem toNat_extractLsb'_eq_div_mod {n : Nat} (start len : Nat) (x : BitVec n) :
    (x.extractLsb' start len).toNat = x.toNat / 2 ^ start % 2 ^ len := by
  rw [BitVec.extractLsb'_toNat, Nat.shiftRight_eq_div_pow]

/-- The mask of a low nibble (R82, R83). -/
theorem toNat_and_lowNibble {n : Nat} (h : 4 ≤ n) (x : BitVec n) : (x &&& 0x0F).toNat = x.toNat % 16 := by
  have h15 : 15 < 2 ^ n := Nat.lt_of_lt_of_le (by decide : 15 < 2 ^ 4) (Nat.pow_le_pow_right (by decide) h)
  rw [BitVec.toNat_and, BitVec.ofNat_eq_ofNat, BitVec.toNat_ofNat, Nat.mod_eq_of_lt h15]
  exact Nat.and_two_pow_sub_one_eq_mod x.toNat 4

/-- The mask of a low byte (R83). -/
theorem toNat_and_lowByte (x : Code) : (x &&& 0xFF).toNat = x.toNat % 256 :=
  Nat.and_two_pow_sub_one_eq_mod x.toNat 8

/-! ### The formulas of rules R81 to R83 -/

theorem unpackCode1_toNat (w : Window) : (unpackCode1 w).toNat = w.b0.toNat * 16 + w.b1.toNat / 16 :=
  toNat_or_eq_mul_add (i := 4) (by bv_omega) (by bv_omega) (by bv_omega)

theorem unpackCode2_toNat (w : Window) : (unpackCode2 w).toNat = w.b1.toNat % 16 * 256 + w.b2.toNat := by
  have hnibble := toNat_and_lowNibble (by decide) w.b1
  exact toNat_or_eq_mul_add (i := 8) (by bv_omega) (by bv_omega) w.b2.isLt

/-- The middle byte of a packing: code1's low nibble above four more bits (R83, R84). -/
theorem middleByte_toNat (a : Code) {low : Byte} (h : low.toNat < 16) :
    (((a &&& 0x0F).setWidth 8 <<< 4) ||| low).toNat = a.toNat % 16 * 16 + low.toNat := by
  have hnibble := toNat_and_lowNibble (by decide) a
  exact toNat_or_eq_mul_add (i := 4) (by bv_omega) rfl h

theorem packPair_eq (a b : Code) : packPair a b =
    ⟨BitVec.ofNat 8 (a.toNat / 16), BitVec.ofNat 8 (a.toNat % 16 * 16 + b.toNat / 256),
      BitVec.ofNat 8 (b.toNat % 256)⟩ := by
  have hmiddle := middleByte_toNat a (low := (b >>> 8).setWidth 8) (by bv_omega)
  have hlow := toNat_and_lowByte b
  rw [packPair, Window.mk.injEq]
  refine ⟨by bv_omega, BitVec.eq_of_toNat_eq ?_, by bv_omega⟩
  rw [hmiddle]
  bv_omega

theorem packTail_eq (a : Code) (pad : BitVec 4) : packTail a pad =
    [BitVec.ofNat 8 (a.toNat / 16), BitVec.ofNat 8 (a.toNat % 16 * 16 + pad.toNat)] := by
  have hmiddle := middleByte_toNat a (low := pad.setWidth 8) (by bv_omega)
  rw [packTail, List.cons.injEq, List.cons.injEq]
  refine ⟨by bv_omega, BitVec.eq_of_toNat_eq ?_, rfl⟩
  rw [hmiddle]
  bv_omega

/-! ### The inverses -/

/-- Packing what a window unpacks to gives the window. -/
theorem packPair_unpack (w : Window) : packPair (unpackCode1 w) (unpackCode2 w) = w := by
  obtain ⟨b0, b1, b2⟩ := w
  rw [packPair_eq, unpackCode1_toNat, unpackCode2_toNat, Window.mk.injEq]
  exact ⟨by bv_omega, by bv_omega, by bv_omega⟩

/-- Packing the code and the padding of a two-byte tail gives the tail (R84). -/
theorem packTail_unpack (t0 t1 : Byte) : packTail (unpackCode1 ⟨t0, t1, 0⟩) (t1.setWidth 4) = [t0, t1] := by
  rw [packTail_eq, unpackCode1_toNat, List.cons.injEq, List.cons.injEq]
  exact ⟨by bv_omega, by bv_omega, rfl⟩

/-- In stream order the bits of a window are those of code1 and then those of code2. -/
theorem unpack_append (w : Window) :
    (unpackCode1 w ++ unpackCode2 w : BitVec 24) = (w.b0 ++ (w.b1 ++ w.b2) : BitVec 24) := by
  apply BitVec.eq_of_toNat_eq
  simp only [toNat_append_eq_mul_add, unpackCode1_toNat, unpackCode2_toNat]
  omega

theorem unpackCode1_fields (w : Window) :
    (unpackCode1 w).extractLsb' 4 8 = w.b0 ∧ (unpackCode1 w).extractLsb' 0 4 = w.b1.extractLsb' 4 4 := by
  have h0 := w.b0.isLt
  have h1 := w.b1.isLt
  refine ⟨BitVec.eq_of_toNat_eq ?_, BitVec.eq_of_toNat_eq ?_⟩
  · rw [toNat_extractLsb'_eq_div_mod, unpackCode1_toNat]
    omega
  · rw [toNat_extractLsb'_eq_div_mod, toNat_extractLsb'_eq_div_mod, unpackCode1_toNat]
    omega

theorem unpackCode2_fields (w : Window) :
    (unpackCode2 w).extractLsb' 8 4 = w.b1.extractLsb' 0 4 ∧ (unpackCode2 w).extractLsb' 0 8 = w.b2 := by
  have h2 := w.b2.isLt
  refine ⟨BitVec.eq_of_toNat_eq ?_, BitVec.eq_of_toNat_eq ?_⟩
  · rw [toNat_extractLsb'_eq_div_mod, toNat_extractLsb'_eq_div_mod, unpackCode2_toNat]
    omega
  · rw [toNat_extractLsb'_eq_div_mod, unpackCode2_toNat]
    omega

end Sys2Proof
end

section
/-! The decoder's answers: what decodes is well formed, admitted by its format, and encodes to the same bytes. -/

namespace Sys2Proof

/-! ### Codes -/

theorem classify_lit {c : Code} (size : BitVec 13) (h : c.toNat < 256) : classify c size = .lit (c.setWidth 8) :=
  if_pos h

theorem classify_badc {c : Code} {size : BitVec 13} (hdyn : 256 ≤ c.toNat) (h : size.toNat ≤ c.toNat) :
    classify c size = .badc c := by
  rw [classify, if_neg (by omega), if_pos h]

theorem classify_dynp {c : Code} {size : BitVec 13} (hdyn : 256 ≤ c.toNat) (h : c.toNat + 1 = size.toNat) :
    classify c size = .dynp c := by
  rw [classify, if_neg (by omega), if_neg (by omega), if_pos h]

theorem classify_dynf {c : Code} {size : BitVec 13} (hdyn : 256 ≤ c.toNat) (h : c.toNat + 2 ≤ size.toNat) :
    classify c size = .dynf c := by
  rw [classify, if_neg (by omega), if_neg (by omega), if_neg (by omega)]

/-- Bytes are the word of an instruction in a format: the instruction is well formed, the format's guard admits it,
and it encodes to the bytes. -/
structure IsWord (f : Format) (bs : List Byte) (i : Instr) : Prop where
  wf : i.wf = true
  inFormat : i.inFormat f = true
  encode : encode i = bs

theorem lit_isWord {c : Code} (size : BitVec 13) (h : c.toNat < 256) :
    IsWord (.code12 size) (encodeCode12 c) (.lit (c.setWidth 8)) where
  wf := rfl
  inFormat := rfl
  encode := by
    have hc : (c.setWidth 8).setWidth 12 = c := by bv_omega
    rw [encode, hc]

/-- Every class of rule R87 is a word of its code at a legal size. -/
theorem classify_isWord (c : Code) {size : BitVec 13} (hsize : size.toNat ≤ 4096) :
    IsWord (.code12 size) (encodeCode12 c) (classify c size) := by
  by_cases hlit : c.toNat < 256
  · rw [classify_lit size hlit]
    exact lit_isWord size hlit
  have hdyn : 256 ≤ c.toNat := by omega
  by_cases hbad : size.toNat ≤ c.toNat
  · rw [classify_badc hdyn hbad]
    exact ⟨by simp [Instr.wf, hdyn], by simp [Instr.inFormat, hdyn, hbad], rfl⟩
  by_cases hprov : c.toNat + 1 = size.toNat
  · rw [classify_dynp hdyn hprov]
    exact ⟨by simp [Instr.wf, hdyn], by simp [Instr.inFormat, hdyn, hprov], rfl⟩
  · have hfin : c.toNat + 2 ≤ size.toNat := by omega
    have hhigh : c.toNat ≤ 4094 := by omega
    rw [classify_dynf hdyn hfin]
    exact ⟨by simp [Instr.wf, hdyn, hhigh], by simp [Instr.inFormat, hdyn, hfin], rfl⟩

/-- The code read from two bytes gives them back, where its upper bits are 0. -/
theorem encodeCode12_of_bytes {lo hi : Byte} (h : hi.toNat < 16) :
    encodeCode12 ((hi ++ lo).setWidth 12) = [lo, hi] := by
  have happend := toNat_append_eq_mul_add hi lo
  rw [encodeCode12, List.cons.injEq, List.cons.injEq]
  exact ⟨by bv_omega, by bv_omega, rfl⟩

theorem decodeCode12_isWord {size : BitVec 13} {lo hi : Byte} {i : Instr} (hsize : size.toNat ≤ 4096)
    (h : decodeCode12 size lo hi = .ok i) : IsWord (.code12 size) [lo, hi] i := by
  unfold decodeCode12 at h
  split at h
  · cases h
  · cases h
    rw [← encodeCode12_of_bytes (lo := lo) (hi := hi) (by omega)]
    exact classify_isWord _ hsize

/-! ### Counts -/

theorem count_cases (k : BitVec 3) : k = 0#3 ∨ k = 1#3 ∨ k = 2#3 ∨ k = 3#3 ∨
    (k ≠ 0#3 ∧ k ≠ 1#3 ∧ k ≠ 2#3 ∧ k ≠ 3#3 ∧ 4 ≤ k.toNat) := by
  revert k; decide

/-- Every row of the READ0 column is a word of its count (R88). -/
theorem read0Instr_isWord (k : BitVec 3) (l0 l1 l2 : Byte) :
    IsWord .count3Read0 (encodeCount k l0 l1 l2) (read0Instr k l0 l1 l2) := by
  obtain rfl | rfl | rfl | rfl | ⟨h0, h1, h2, h3, hbad⟩ := count_cases k
  · exact ⟨rfl, rfl, rfl⟩
  · exact ⟨rfl, rfl, rfl⟩
  · exact ⟨rfl, rfl, rfl⟩
  · exact ⟨rfl, rfl, rfl⟩
  · rw [read0Instr, if_neg h0, if_neg h1, if_neg h2, if_neg h3]
    exact ⟨decide_eq_true hbad, decide_eq_true hbad, rfl⟩

/-- Every row of the READ1 column is a word of its count (R88). -/
theorem read1Instr_isWord (k : BitVec 3) (l0 l1 l2 : Byte) :
    IsWord .count3Read1 (encodeCount k l0 l1 l2) (read1Instr k l0 l1 l2) := by
  obtain rfl | rfl | rfl | rfl | ⟨h0, h1, h2, h3, hbad⟩ := count_cases k
  · exact ⟨rfl, rfl, rfl⟩
  · exact ⟨rfl, rfl, rfl⟩
  · exact ⟨rfl, rfl, rfl⟩
  · exact ⟨rfl, rfl, rfl⟩
  · rw [read1Instr, if_neg h0, if_neg h1, if_neg h2, if_neg h3]
    exact ⟨decide_eq_true hbad, decide_eq_true hbad, rfl⟩

theorem decodeCount_isWord {f : Format} {col : BitVec 3 → Byte → Byte → Byte → Instr}
    (hcol : ∀ k l0 l1 l2, IsWord f (encodeCount k l0 l1 l2) (col k l0 l1 l2)) {k l0 l1 l2 : Byte} {i : Instr}
    (h : decodeCount col k l0 l1 l2 = .ok i) : IsWord f [k, l0, l1, l2] i := by
  unfold decodeCount at h
  split at h
  · cases h
  · cases h
    have hk : (k.setWidth 3).setWidth 8 = k := by bv_omega
    have hword := hcol (k.setWidth 3) l0 l1 l2
    rwa [encodeCount, hk] at hword

/-! ### CTRL -/

theorem ofBool_getLsbD {n : Nat} (v : BitVec n) (i : Nat) : BitVec.ofBool (v.getLsbD i) = v.extractLsb' i 1 := by
  ext j hj
  obtain rfl : j = 0 := Nat.lt_one_iff.1 hj
  simp

/-- A word is its bits 31:2, its bit 1 and its bit 0 (R90). -/
theorem ctrl_of_fields (v : Word) :
    v.extractLsb' 2 30 ++ (BitVec.ofBool (v.getLsbD 1) ++ BitVec.ofBool (v.getLsbD 0)) = v := by
  have hlow : v.extractLsb' 1 1 ++ v.extractLsb' 0 1 = v.extractLsb' 0 2 :=
    BitVec.extractLsb'_append_extractLsb'_eq_extractLsb' rfl
  have hall : v.extractLsb' 2 30 ++ v.extractLsb' 0 2 = v.extractLsb' 0 32 :=
    BitVec.extractLsb'_append_extractLsb'_eq_extractLsb' rfl
  rw [ofBool_getLsbD, ofBool_getLsbD, hlow, hall, BitVec.extractLsb'_eq_self]

/-- The lanes of the word that four bytes make are the bytes (R67). -/
theorem lanesOfWord_wordOfLanes (b0 b1 b2 b3 : Byte) : lanesOfWord (wordOfLanes b0 b1 b2 b3) = [b0, b1, b2, b3] := by
  have hword : (wordOfLanes b0 b1 b2 b3).toNat =
      b3.toNat * 2 ^ 24 + (b2.toNat * 2 ^ 16 + (b1.toNat * 2 ^ 8 + b0.toNat)) := by
    simp only [wordOfLanes, toNat_append_eq_mul_add]
  have hlane (start : Nat) (b : Byte) (h : (wordOfLanes b0 b1 b2 b3).toNat / 2 ^ start % 2 ^ 8 = b.toNat) :
      (wordOfLanes b0 b1 b2 b3).extractLsb' start 8 = b :=
    BitVec.eq_of_toNat_eq (by rw [toNat_extractLsb'_eq_div_mod, h])
  rw [lanesOfWord, hlane 0 b0 (by bv_omega), hlane 8 b1 (by bv_omega), hlane 16 b2 (by bv_omega),
    hlane 24 b3 (by bv_omega)]

/-- The command of a value is a word of its lanes (R67, R90). -/
theorem ctrlInstr_isWord (v : Word) : IsWord .ctrl32 (lanesOfWord v) (ctrlInstr v) := by
  have hv := ctrl_of_fields v
  unfold ctrlInstr
  split
  · rename_i h1
    rw [h1] at hv
    exact ⟨rfl, rfl, congrArg lanesOfWord hv⟩
  · rename_i h1
    split
    · rename_i h0
      rw [Bool.eq_false_iff.2 h1, h0] at hv
      exact ⟨rfl, rfl, congrArg lanesOfWord hv⟩
    · rename_i h0
      rw [Bool.eq_false_iff.2 h1, Bool.eq_false_iff.2 h0] at hv
      exact ⟨rfl, rfl, congrArg lanesOfWord hv⟩

/-! ### The decoder -/

/-- Whatever the decoder answers, the bytes are its word (a code's at a legal size). -/
theorem decode_isWord {f : Format} {bs : List Byte} {i : Instr} (h : decode f bs = .ok i)
    (hsize : ∀ size, f = .code12 size → size.toNat ≤ 4096) : IsWord f bs i := by
  unfold decode at h
  split at h
  · exact decodeCode12_isWord (hsize _ rfl) h
  · exact decodeCount_isWord read0Instr_isWord h
  · exact decodeCount_isWord read1Instr_isWord h
  · cases h
    exact ⟨rfl, rfl, by rw [encode, packPair_unpack]⟩
  · cases h
    exact ⟨rfl, rfl, packTail_unpack _ _⟩
  · cases h
    exact ⟨rfl, rfl, rfl⟩
  · cases h
    rw [← lanesOfWord_wordOfLanes]
    exact ctrlInstr_isWord _
  · cases h

end Sys2Proof
end

section
/-! The statements of 30_encoding.md about the bit fields, the decoder and the encoder. -/

namespace Sys2Proof

open Sys2Proof.Machine Sys2Proof.Safety Sys2Proof.Laws

/-- Settles O12, by the law of each row. -/
theorem decodeOfEncodeIsTheInstruction : Obligations.DecodeOfEncodeIsTheInstruction := by
  intro i
  cases i with
  | lit c => exact DecodeEncode.lit c
  | dynf c => exact DecodeEncode.dynf c
  | dynp c => exact DecodeEncode.dynp c
  | badc c => exact DecodeEncode.badc c
  | rd0Empty l0 l1 l2 => exact DecodeEncode.rd0Empty l0 l1 l2
  | rd0N1 l0 l1 l2 => exact DecodeEncode.rd0N1 l0 l1 l2
  | rd0N2 l0 l1 l2 => exact DecodeEncode.rd0N2 l0 l1 l2
  | rd0N3 l0 l1 l2 => exact DecodeEncode.rd0N3 l0 l1 l2
  | rd0Bad k l0 l1 l2 => exact DecodeEncode.rd0Bad k l0 l1 l2
  | rd1Stop1 l0 l1 l2 => exact DecodeEncode.rd1Stop1 l0 l1 l2
  | rd1Stop2 l0 l1 l2 => exact DecodeEncode.rd1Stop2 l0 l1 l2
  | rd1Cont2 l0 l1 l2 => exact DecodeEncode.rd1Cont2 l0 l1 l2
  | rd1Cont3 l0 l1 l2 => exact DecodeEncode.rd1Cont3 l0 l1 l2
  | rd1Bad k l0 l1 l2 => exact DecodeEncode.rd1Bad k l0 l1 l2
  | pack3 code1 code2 => exact DecodeEncode.pack3 code1 code2
  | tail2 code1 pad => exact DecodeEncode.tail2 code1 pad
  | delim ignored => exact DecodeEncode.delim ignored
  | cmdNone ignored => exact DecodeEncode.cmdNone ignored
  | cmdStart ignored => exact DecodeEncode.cmdStart ignored
  | cmdSrst ignored start => exact DecodeEncode.cmdSrst ignored start

/-- Settles O9, by the arithmetic of the bit fields. -/
theorem packingIsInvertedByUnpacking : Obligations.PackingIsInvertedByUnpacking :=
  ⟨packPair_eq, fun a => packTail_eq a 0, unpack_pack, packPair_unpack⟩

/-- Settles O10, by the class at each condition. -/
theorem codeClassIsTheConditionOfRuleR87 : Obligations.CodeClassIsTheConditionOfRuleR87 := by
  intro c size hlow _
  rw [decode_code12]
  refine ⟨fun h => ?_, fun hdyn h => ?_, fun h hsize => ?_, fun h => ?_⟩
  · rw [classify_lit size (by omega)]
  · rw [classify_dynf hdyn h]
  · rw [classify_dynp (by omega) h]
  · rw [classify_badc (by omega) h]

/-- Settles O13, by the decoder's answer for each format. -/
theorem encodeOfDecodeIsTheWord : Obligations.EncodeOfDecodeIsTheWord := by
  intro f bs i h hsize
  obtain ⟨hwf, hformat, hencode⟩ := decode_isWord h fun size hf => (hsize size hf).2
  exact ⟨hwf, hformat, hencode⟩

/-- Settles O7, by the formula of rule R81. -/
theorem code1OfAWindowIsRuleR81 : Obligations.Code1OfAWindowIsRuleR81 :=
  ⟨unpackCode1_toNat, unpackCode1_fields, unpack_append⟩

/-- Settles O8, by the formula of rule R82. -/
theorem code2OfAWindowIsRuleR82 : Obligations.Code2OfAWindowIsRuleR82 :=
  ⟨unpackCode2_toNat, unpackCode2_fields, by decide, by decide⟩

/-- Settles O11: the decoder evaluated on each of the words. -/
theorem writtenOutWordsDecode : Obligations.WrittenOutWordsDecode :=
  ⟨rfl, rfl, rfl, rfl, rfl, rfl, rfl, rfl, rfl, rfl, rfl⟩

/-- Settles O45: the encoding state by state, and the flags in each of the seven states. -/
theorem flagsAndStateEncoding : Obligations.FlagsAndStateEncoding := by
  refine ⟨rfl, rfl, rfl, rfl, rfl, rfl, rfl, fun c => ?_⟩
  cases c <;> decide

end Sys2Proof
end

section
/-! The dictionary's update and the code step that passes: that they complete from a sound dictionary, and everything
they do. -/

namespace Sys2Proof.Machine

open Sys2Proof.Safety

/-! ### The update completes -/

theorem mem_of_dictFind {d : Dict} {k : Nat} {e : Entry} (h : dictFind d k = some e) : (k, e) ∈ d := by
  induction d with
  | nil => cases h
  | cons p rest ih =>
    obtain ⟨j, x⟩ := p
    by_cases hj : j = k
    · rw [dictFind, if_pos hj, Option.some.injEq] at h
      rw [hj, h]
      exact List.mem_cons_self
    · rw [dictFind, if_neg hj] at h
      exact List.mem_cons_of_mem _ (ih h)

/-- What the invariant says of the dictionary: exactly the slots below the size are listed, with entries of two bytes
or more (R24, R25, R27). -/
structure DictSound (size : BitVec 13) (d : Dict) : Prop where
  low : 256 ≤ size.toNat
  high : size.toNat ≤ 4096
  populated : d.map Prod.fst = List.range' 256 (size.toNat - 256)
  long : ∀ p ∈ d, 2 ≤ p.2.length

theorem dictSound_of_inv {s : State} (h : Inv s) : DictSound s.size s.dict :=
  ⟨h.size_low, h.size_high, h.populated, h.long⟩

/-- No slot holds an empty entry (R25). -/
theorem DictSound.nonempty {size : BitVec 13} {d : Dict} (hd : DictSound size d) {k : Nat} {e : Entry}
    (h : dictRead d k = some e) : ∃ b rest, e = b :: rest := by
  have hne : e ≠ [] := by
    rintro rfl
    by_cases hk : k < 256
    · rw [dictRead_literal d k hk] at h
      cases h
    · rw [dictRead_dynamic d k (by omega)] at h
      exact absurd (hd.long _ (mem_of_dictFind h)) (by simp)
  exact List.exists_cons_of_ne_nil hne

/-- Every slot below the size holds an entry (R25, R61). -/
theorem DictSound.read_below {size : BitVec 13} {d : Dict} (hd : DictSound size d) {k : Nat}
    (hk : k < size.toNat) : ∃ b rest, dictRead d k = some (b :: rest) := by
  have hsome : ∃ e, dictRead d k = some e := by
    by_cases hlit : k < 256
    · exact ⟨_, dictRead_literal d k hlit⟩
    · rw [dictRead_dynamic d k (by omega)]
      obtain ⟨e, he, -⟩ := dictFind_of_keys hd.populated (k := k) (by omega) (by omega)
      exact ⟨e, he⟩
  obtain ⟨e, he⟩ := hsome
  obtain ⟨b, rest, rfl⟩ := hd.nonempty he
  exact ⟨b, rest, he⟩

theorem patchStep_completes {s : State} (hd : DictSound s.size s.dict) (b : Byte) : ∃ t, patchStep b s = .ok t := by
  unfold patchStep
  split
  · exact ⟨s, rfl⟩
  · obtain ⟨x, rest, hr⟩ := hd.read_below (k := s.size.toNat - 1) (by have := hd.low; omega)
    rw [hr]
    exact ⟨_, rfl⟩

/-- The full test leaves room for the append (R105). -/
theorem fullStep_room {s : State} (h : s.size.toNat ≤ 4096) : (fullStep s).size.toNat < 4096 := by
  unfold fullStep
  split
  · exact (by decide : (256 : BitVec 13).toNat < 4096)
  · omega

/-- The dictionary's contracts hold: an update with a code below the size completes (R109). -/
theorem dictUpdate_completes {c : Code} {s : State} (hd : DictSound s.size s.dict) (hc : c.toNat < s.size.toNat) :
    ∃ t, dictUpdate c s = .ok t := by
  obtain ⟨b, rest, hr⟩ := hd.read_below hc
  obtain ⟨u, hu⟩ := patchStep_completes hd b
  have hroom : ¬ 4096 ≤ (fullStep u).size.toNat := by
    have := fullStep_room (s := u) (by rw [(patchStep_size hu).1]; exact hd.high)
    omega
  unfold dictUpdate
  rw [if_neg (by omega), hr]
  simp only [hu, appendStep, if_neg hroom]
  exact ⟨_, rfl⟩

/-! ### What the update does -/

/-- What every slot reads as after the patch (R104). -/
theorem patchStep_read {b : Byte} {s t : State} (h : patchStep b s = .ok t) :
    (257 ≤ s.size.toNat → ∀ p, dictRead s.dict (s.size.toNat - 1) = some p →
      dictRead t.dict (s.size.toNat - 1) = some (p.dropLast ++ [b])) ∧
    ∀ k, k ≠ s.size.toNat - 1 → dictRead t.dict k = dictRead s.dict k := by
  obtain ⟨hlit, rfl⟩ | ⟨hdyn, p, hp, hne, rfl⟩ := patchStep_ok h
  · exact ⟨fun hs => absurd hs (by omega), fun _ _ => rfl⟩
  · refine ⟨fun _ q hq => ?_, fun k hk => ?_⟩
    · obtain rfl : p = q := Option.some.inj (hp.symm.trans hq)
      rw [dictRead_write _ _ _ _ hdyn, if_pos rfl, setLast_eq p b hne]
    · rw [dictRead_write _ _ _ _ hdyn, if_neg hk]

theorem fullStep_of_lt {s : State} (h : s.size.toNat < 4096) : fullStep s = s := if_neg (by omega)

theorem fullStep_of_eq {s : State} (h : s.size.toNat = 4096) :
    fullStep s = { dictReset s with dictGen := s.dictGen + 1 } := if_pos h

/-- An update that completes does its three steps (R103 to R106). -/
theorem dictUpdate_updated {c : Code} {e : Entry} {s t : State} (hlow : 256 ≤ s.size.toNat)
    (hr : dictRead s.dict c.toNat = some e) (h : dictUpdate c s = .ok t) :
    ∃ b, e.head? = some b ∧ DictUpdated s t e b := by
  obtain ⟨b, rest, u, -, hr', hu, ha⟩ := dictUpdate_ok h
  obtain rfl : e = b :: rest := Option.some.inj (hr.symm.trans hr')
  obtain ⟨hsize, hgen⟩ := patchStep_size hu
  obtain ⟨hpatched, hothers⟩ := patchStep_read hu
  obtain ⟨-, rfl⟩ := appendStep_ok ha
  refine ⟨b, rfl, ?_⟩
  obtain ⟨hlt, -, -⟩ | ⟨hfull, -, -⟩ := dictUpdate_size h
  · rw [fullStep_of_lt (hsize ▸ hlt), hsize]
    exact {
      literals := fun k hk => (dictRead_literal _ k hk).trans (dictRead_literal _ k hk).symm
      grown := fun _ => ⟨rfl, hgen⟩
      appended := fun _ => by rw [dictRead_write _ _ _ _ hlow, if_pos rfl]
      patched := fun _ h257 p hp => by rw [dictRead_write _ _ _ _ hlow, if_neg (by omega), hpatched h257 p hp]
      others := fun _ k h1 h2 => by rw [dictRead_write _ _ _ _ hlow, if_neg h1, hothers k h2]
      renewed := fun hfull => absurd hfull (by omega) }
  · have hnot : ¬ s.size.toNat < 4096 := by omega
    have hread (k : Nat) : dictRead (dictWrite 256 (b :: rest ++ [b]) []) k =
        if k = 256 then some (b :: rest ++ [b]) else dictRead [] k := dictRead_write _ _ _ _ (Nat.le_refl 256)
    rw [fullStep_of_eq (hsize ▸ hfull)]
    exact {
      literals := fun k hk => (dictRead_literal _ k hk).trans (dictRead_literal _ k hk).symm
      grown := fun hlt => absurd hlt hnot
      appended := fun hlt => absurd hlt hnot
      patched := fun hlt => absurd hlt hnot
      others := fun hlt => absurd hlt hnot
      renewed := fun _ => ⟨rfl, congrArg (· + 1) hgen, hread 256, fun k hk =>
        (hread k).trans ((if_neg (by omega)).trans (dictRead_dynamic [] k (by omega)))⟩ }

/-! ### The code step that passes -/

/-- The state of a step on the entry `e` once the host has every byte of it (R63, R146). -/
def emitted (e : Entry) (s : State) : State :=
  { s with
    out := s.out ++ e.drop s.sent, outCount := s.outCount + BitVec.ofNat 32 (e.length - s.sent),
    sent := e.length, room := s.room.map (· - (e.length - s.sent)) }

/-- The same step once the dictionary is updated as in `u` and the code is counted (R146). -/
def passed (e : Entry) (u s : State) : State :=
  { emitted e s with
    sent := 0, dict := u.dict, size := u.size, dictGen := u.dictGen, codeCount := s.codeCount + 1 }

/-- A code whose bytes the host accepts and whose update completes passes (R146). -/
theorem codeStep_of_update {c : Code} {e : Entry} {s u : State} (hinv : Inv s) (hst : InCodeStep s)
    (ha : Accepts s e) (hc : c.toNat < s.size.toNat) (hr : dictRead s.dict c.toNat = some e) (hf : UpdateFits e)
    (hu : dictUpdate c (endTransfer (emitted e s)) = .ok u) :
    codeStep c s = .next (afterCode s (passed e u s)) := by
  have hemit : emit (e.drop s.sent) s = emitted e s := emit_accepted ha
  have hall : e.length ≤ (emitted e s).sent := Nat.le_refl _
  have hcount : { u with codeCount := u.codeCount + 1 } = passed e u s := by rw [dictUpdate_frame hu]; rfl
  rw [codeStep_emits (codeStep_enabled hinv hst) hinv.n_legal hc hr hf, hemit, afterEmission, if_pos hall, finishCode,
    hu, ← hcount]
  rfl

theorem afterCode_st (s u : State) : (afterCode s u).st =
    if s.st = .code1 then (if s.n = 0#3 then .done else .code2) else (if s.n = 1#3 then .done else .read1) := by
  unfold afterCode
  split
  · split <;> rfl
  · split <;> rfl

theorem afterCode_W0 {s : State} (hst : InCodeStep s) (u : State) :
    (afterCode s u).W0 = if s.st = .code2 ∧ s.n ≠ 1#3 then u.W1 else u.W0 := by
  obtain h | h := hst
  · by_cases hn : s.n = 0#3 <;> simp [afterCode, h, hn]
  · by_cases hn : s.n = 1#3 <;> simp [afterCode, h, hn]

/-- The emission, the update and the transition are together what rules R144 to R146 say. -/
theorem codePassed_of_updated {e : Entry} {b : Byte} {s u : State} (hst : InCodeStep s) (hb : e.head? = some b)
    (hupd : DictUpdated (endTransfer (emitted e s)) u e b) : CodePassed s (afterCode s (passed e u s)) e := by
  have hst' := afterCode_st s (passed e u s)
  have hW0' := afterCode_W0 hst (passed e u s)
  obtain ⟨x, w, hx⟩ := afterCode_eq s (passed e u s)
  rw [hx] at hst' hW0' ⊢
  exact {
    out := rfl, outCount := rfl, room := rfl, sent := rfl, codeCount := rfl, st := hst', W0 := hW0', W1 := rfl
    updated := ⟨b, hb, hupd.literals, hupd.grown, hupd.appended, hupd.patched, hupd.others, hupd.renewed⟩
    n := rfl, errCode := rfl, errInfo := rfl, inCount := rfl, answers := rfl, stream := rfl, readLog := rfl
    turns := rfl, draws := rfl }

/-- A populated code whose update fits and whose bytes the host accepts completes its step, with all its effects
(R144 to R146). -/
theorem codeStep_passes {c : Code} {e : Entry} {s : State} (hinv : Inv s) (hst : InCodeStep s) (ha : Accepts s e)
    (hc : c.toNat < s.size.toNat) (hr : dictRead s.dict c.toNat = some e) (hf : UpdateFits e) :
    ∃ t, codeStep c s = .next t ∧ CodePassed s t e := by
  have hd : DictSound s.size s.dict := dictSound_of_inv hinv
  obtain ⟨u, hu⟩ := dictUpdate_completes (s := endTransfer (emitted e s)) hd hc
  obtain ⟨b, hb, hupd⟩ := dictUpdate_updated (s := endTransfer (emitted e s)) hd.low hr hu
  refine ⟨_, codeStep_of_update hinv hst ha hc hr hf hu, codePassed_of_updated hst hb hupd⟩

/-! ### Tails and the delimiter -/

theorem tailStep_eq {c : Code} {s : State} (hst : s.st = .code1) (hn : s.n = 0#3) : tailStep c s = codeStep c s := by
  simp [tailStep, hst, hn]

/-- The step READ1 with a legal count (R143). -/
theorem read1Step_legal {k : BitVec 3} {s : State} (hst : s.st = .read1) (hk : k.toNat ≤ 3) (l0 l1 l2 : Byte) :
    read1Step k l0 l1 l2 s = .next (goto .code1 { countIn k s with W1 := fillLanes k l0 l1 l2, n := k }) := by
  have hlegal : ¬ 4 ≤ k.toNat := by omega
  simp only [read1Step, hst, if_neg hlegal]

end Sys2Proof.Machine
end

section
/-! The statements of 30_encoding.md about the tail and the lone last byte. -/

namespace Sys2Proof

open Sys2Proof.Machine Sys2Proof.Safety

/-- Settles O27, by the code step that passes. -/
theorem tail2DecodesOneCode : Obligations.Tail2DecodesOneCode := by
  intro c pad e s hinv hst hn ha hc hr hf
  obtain ⟨t, hstep, hpassed⟩ := codeStep_passes hinv (.inl hst) ha hc hr hf
  refine ⟨t, (tailStep_eq hst hn).trans hstep, hpassed, ?_⟩
  rw [hpassed.st, if_pos hst, if_pos hn]

/-- Settles O28, by the step READ1 at count 1. -/
theorem delimArrivesInW1 : Obligations.DelimArrivesInW1 :=
  fun b _ hst => read1Step_legal (k := 1) hst (by decide) b 0 0

end Sys2Proof
end

section
/-! The code steps do not look at the lookahead window W1: with trailing count 1 they commute with replacing it
(R85, D29). -/

namespace Sys2Proof.Machine

open Sys2Proof.Safety

/-- The state with another lookahead window. -/
def withW1 (w : Window) (s : State) : State := { s with W1 := w }

/-- The outcome with its next state changed. -/
def mapNext (k : State → State) : Host.Outcome State Fault Refusal → Host.Outcome State Fault Refusal
  | .next t => .next (k t)
  | .fault r => .fault r
  | .refused r => .refused r

/-- How ProcessCode ends, with the state changed. -/
def CodeOutcome.mapState (k : State → State) : CodeOutcome → CodeOutcome
  | .passed t => .passed (k t)
  | .ended t => .ended (k t)
  | .stopped r => .stopped r

/-! ### ProcessCode -/

@[simp] theorem withW1_st (w : Window) (s : State) : (withW1 w s).st = s.st := rfl
@[simp] theorem withW1_n (w : Window) (s : State) : (withW1 w s).n = s.n := rfl
@[simp] theorem withW1_size (w : Window) (s : State) : (withW1 w s).size = s.size := rfl
@[simp] theorem withW1_dict (w : Window) (s : State) : (withW1 w s).dict = s.dict := rfl
@[simp] theorem withW1_sent (w : Window) (s : State) : (withW1 w s).sent = s.sent := rfl

theorem patchStep_withW1 (b : Byte) (w : Window) (s : State) :
    patchStep b (withW1 w s) = (patchStep b s).map (withW1 w) := by
  by_cases h : s.size.toNat - 1 < 256
  · simp [patchStep, h, Except.map]
  · cases hr : dictRead s.dict (s.size.toNat - 1) with
    | none => simp [patchStep, h, hr, Except.map]
    | some e => cases e <;> simp [patchStep, h, hr, Except.map, withW1]

theorem appendStep_withW1 (e : Entry) (w : Window) (s : State) :
    appendStep e (withW1 w s) = (appendStep e s).map (withW1 w) := by
  by_cases h : 4096 ≤ s.size.toNat <;> simp [appendStep, h, Except.map, withW1]

theorem fullStep_withW1 (w : Window) (s : State) : fullStep (withW1 w s) = withW1 w (fullStep s) := by
  simp only [fullStep_eq, withW1]

theorem dictUpdate_withW1 (c : Code) (w : Window) (s : State) :
    dictUpdate c (withW1 w s) = (dictUpdate c s).map (withW1 w) := by
  by_cases h : s.size.toNat ≤ c.toNat
  · simp [dictUpdate, h, Except.map]
  · cases hr : dictRead s.dict c.toNat with
    | none => simp [dictUpdate, h, hr, Except.map]
    | some e =>
      cases e with
      | nil => simp [dictUpdate, h, hr, Except.map]
      | cons b rest =>
        cases hp : patchStep b s with
        | error r => simp [dictUpdate, h, hr, patchStep_withW1, hp, Except.map]
        | ok t =>
          have happend := appendStep_withW1 ((b :: rest) ++ [b]) w (fullStep t)
          rw [← fullStep_withW1] at happend
          simpa [dictUpdate, h, hr, patchStep_withW1, hp, Except.map] using happend

theorem emit_withW1 (e : Entry) (w : Window) (s : State) : emit e (withW1 w s) = withW1 w (emit e s) := by
  simp only [emit_eq, withW1]

theorem finishCode_withW1 (c : Code) (w : Window) (s : State) :
    finishCode c (withW1 w s) = (finishCode c s).mapState (withW1 w) := by
  have hend : endTransfer (withW1 w s) = withW1 w (endTransfer s) := rfl
  rw [finishCode, finishCode, hend, dictUpdate_withW1]
  cases dictUpdate c (endTransfer s) <;> rfl

theorem afterEmission_withW1 (c : Code) (e : Entry) (w : Window) (s : State) :
    afterEmission c e (withW1 w s) = (afterEmission c e s).mapState (withW1 w) := by
  by_cases h : e.length ≤ s.sent <;> simp [afterEmission, h, finishCode_withW1, CodeOutcome.mapState]

theorem processCode_withW1 (c : Code) (w : Window) (s : State) :
    processCode c (withW1 w s) = (processCode c s).mapState (withW1 w) := by
  by_cases h : s.size.toNat ≤ c.toNat
  · simp [processCode, h, CodeOutcome.mapState, raiseError, withW1]
  · cases hr : dictRead s.dict c.toNat with
    | none => simp [processCode, h, hr, CodeOutcome.mapState]
    | some e =>
      by_cases hf : entryFits e.length = true
      · simp [processCode, h, hr, hf, emit_withW1, afterEmission_withW1]
      · simp [processCode, h, hr, hf, CodeOutcome.mapState, raiseError, withW1]

/-! ### The code steps with trailing count 1 -/

/-- With trailing count 1 the second code ends the run, so W1 is never taken over as the next window (R145). -/
theorem afterCode_withW1 {s : State} (hn : s.n = 1#3) (w : Window) (u : State) :
    afterCode (withW1 w s) (withW1 w u) = withW1 w (afterCode s u) := by
  by_cases hst : s.st = .code1 <;> simp [afterCode, hst, hn, goto, withW1]

theorem codeStep_withW1 (c : Code) {s : State} (hst : InCodeStep s) (hn : s.n = 1#3) (w : Window) :
    codeStep c (withW1 w s) = mapNext (withW1 w) (codeStep c s) := by
  have hst' : s.st = .code1 ∨ (s.st = .code2 ∧ s.n ≠ 0#3) := hst.imp id fun h => ⟨h, by simp [hn]⟩
  have hlegal : s.n.toNat ≤ 3 := by simp [hn]
  rw [codeStep_eq c hst' hlegal, codeStep_eq (s := withW1 w s) c hst' hlegal, processCode_withW1]
  cases processCode c s with
  | passed u => exact congrArg _ (afterCode_withW1 hn w u)
  | ended u => rfl
  | stopped r => rfl

theorem codeStep_n {c : Code} {s t : State} (h : codeStep c s = .next t) : t.n = s.n := by
  obtain ⟨err, arg, rfl⟩ | ⟨p, rfl⟩ | ⟨p, u, x, v, hu, rfl⟩ := codeStep_cases h
  · rfl
  · exact emit_n p s
  · rw [dictUpdate_frame hu]
    exact emit_n p s

theorem windowStep_withW1 (c1 c2 : Code) {s : State} (hst : s.st = .code1) (hn : s.n = 1#3) (w : Window) :
    windowStep c1 c2 (withW1 w s) = mapNext (withW1 w) (windowStep c1 c2 s) := by
  simp only [windowStep, withW1_st, hst, codeStep_withW1 c1 (.inl hst) hn w]
  cases h1 : codeStep c1 s with
  | next t =>
    by_cases ht : t.st = .code2
    · simp [mapNext, ht, codeStep_withW1 c2 (.inr ht) ((codeStep_n h1).trans hn) w]
    · simp [mapNext, ht]
  | fault r => rfl
  | refused r => rfl

/-! ### The host's turn -/

theorem resetEngine_withW1 (w : Window) (s : State) : resetEngine (withW1 w s) = resetEngine s := by
  have hentry : entryInProgress (withW1 w s) = entryInProgress s := rfl
  rw [resetEngine, resetEngine, cutOutput, cutOutput, hentry]
  cases entryInProgress s <;> rfl

theorem hostRead_withW1 (a : BusAddr) (width : Nat) (w : Window) (s : State) :
    hostRead a width (withW1 w s) = withW1 w (hostRead a width s) := by
  unfold hostRead
  cases accessOffset a width <;> rfl

/-- A reset clears W1; every other host turn keeps it as it is. -/
theorem hostAccess_withW1 (op : HostOp) (w : Window) (s : State) :
    ∃ w', hostAccess op (withW1 w s) = withW1 w' (hostAccess op s) := by
  cases op with
  | read a width => exact ⟨w, hostRead_withW1 a width w s⟩
  | write a width v => exact ⟨w, rfl⟩
  | reset => exact ⟨Window.zero, resetEngine_withW1 w s⟩
  | offer x => exact ⟨w, rfl⟩
  | accept x => exact ⟨w, rfl⟩

theorem startCommand_of_busy {s : State} (hbusy : s.st.busy = true) : startCommand s = s := if_pos hbusy

/-- SRST clears W1; a START while BUSY and the empty command keep it as it is (R171 to R173). -/
theorem ctrlInstr_withW1 (v : Word) {s : State} (hbusy : s.st.busy = true) (w : Window) :
    ∃ w', exec (ctrlInstr v) (withW1 w s) = mapNext (withW1 w') (exec (ctrlInstr v) s) := by
  simp only [exec_ctrlInstr, resetEngine_withW1, startCommand_of_busy hbusy,
    startCommand_of_busy (s := withW1 w s) hbusy]
  by_cases h1 : v.getLsbD 1 = true
  · rw [if_pos h1, if_pos h1]
    exact ⟨Window.zero, rfl⟩
  · rw [if_neg h1, if_neg h1, ite_self, ite_self]
    exact ⟨w, rfl⟩

theorem hostFetch_withW1 (op : HostOp) {s : State} (hbusy : s.st.busy = true) (w : Window) :
    ∃ w', outcomeOf (hostFetch op (withW1 w s)) = mapNext (withW1 w') (outcomeOf (hostFetch op s)) := by
  obtain ⟨w', haccess⟩ := hostAccess_withW1 op w s
  have hnext : outcomeOf (.access op (withW1 w s)) = mapNext (withW1 w') (outcomeOf (.access op s)) :=
    congrArg Host.Outcome.next haccess
  cases op with
  | write a width v =>
    by_cases h : accessOffset a width = some 0
    · simp only [hostFetch, if_pos h, outcomeOf, decode_ctrl]
      exact ctrlInstr_withW1 v hbusy w
    · simp only [hostFetch, if_neg h]
      exact ⟨w', hnext⟩
  | read a width => exact ⟨w', hnext⟩
  | reset => exact ⟨w', hnext⟩
  | offer x => exact ⟨w', hnext⟩
  | accept x => exact ⟨w', hnext⟩

/-! ### The step -/

theorem outcomeOf_engine_code1 {s : State} (h : s.st = .code1) :
    outcomeOf (engineFetch s) = codeStep (unpackCode1 s.W0) s := by
  simp only [engineFetch, h, outcomeOf_code]

theorem outcomeOf_engine_code2 {s : State} (h : s.st = .code2) :
    outcomeOf (engineFetch s) = codeStep (unpackCode2 s.W0) s := by
  simp only [engineFetch, h, outcomeOf_code]

theorem outcomeOf_stream_window {s : State} (h : s.st = .code1) (hn : s.n ≠ 0#3) :
    outcomeOf (streamFetch s) = windowStep (unpackCode1 s.W0) (unpackCode2 s.W0) s := by
  simp only [streamFetch, h, if_neg hn]
  rfl

theorem engineFetch_withW1 {s : State} (hst : InCodeStep s) (hn : s.n = 1#3) (w : Window) :
    outcomeOf (engineFetch (withW1 w s)) = mapNext (withW1 w) (outcomeOf (engineFetch s)) := by
  obtain h | h := hst
  · rw [outcomeOf_engine_code1 h, outcomeOf_engine_code1 (s := withW1 w s) h]
    exact codeStep_withW1 _ (.inl h) hn w
  · rw [outcomeOf_engine_code2 h, outcomeOf_engine_code2 (s := withW1 w s) h]
    exact codeStep_withW1 _ (.inr h) hn w

theorem streamFetch_withW1 {s : State} (hst : InCodeStep s) (hn : s.n = 1#3) (w : Window) :
    outcomeOf (streamFetch (withW1 w s)) = mapNext (withW1 w) (outcomeOf (streamFetch s)) := by
  obtain h | h := hst
  · have h0 : s.n ≠ 0#3 := by simp [hn]
    rw [outcomeOf_stream_window h h0, outcomeOf_stream_window (s := withW1 w s) h h0]
    exact windowStep_withW1 _ _ h hn w
  · have hengine (t : State) (ht : t.st = .code2) : streamFetch t = engineFetch t := by simp only [streamFetch, ht]
    rw [hengine s h, hengine (withW1 w s) h]
    exact engineFetch_withW1 (.inr h) hn w

/-- Whatever W1 holds, a step in a code state with trailing count 1 has the same outcome but for W1 (R85, R122). -/
theorem step_withW1 {s : State} (hst : InCodeStep s) (hn : s.n = 1#3) (w : Window) :
    ∃ w', step (withW1 w s) = mapNext (withW1 w') (step s) := by
  have hbusy : s.st.busy = true := by obtain h | h := hst <;> rw [h] <;> rfl
  have hst' : InCodeStep (takeTurn s) := hst
  rw [step_eq_outcomeOf, step_eq_outcomeOf]
  cases h : s.turns with
  | nil =>
    rw [fetch_engine (.inl h), fetch_engine (s := withW1 w s) (.inl h)]
    exact ⟨w, engineFetch_withW1 hst' hn w⟩
  | cons turn rest =>
    cases turn with
    | engine =>
      rw [fetch_engine (.inr ⟨rest, h⟩), fetch_engine (s := withW1 w s) (.inr ⟨rest, h⟩)]
      exact ⟨w, engineFetch_withW1 hst' hn w⟩
    | stream =>
      rw [fetch_stream h, fetch_stream (s := withW1 w s) h]
      exact ⟨w, streamFetch_withW1 hst' hn w⟩
    | host op =>
      rw [fetch_host h, fetch_host (s := withW1 w s) h]
      exact hostFetch_withW1 op (s := takeTurn s) hbusy w

end Sys2Proof.Machine
end

section
/-! The statement of 30_encoding.md about the delimiter byte. -/

namespace Sys2Proof

open Sys2Proof.Machine Sys2Proof.Safety

/-- Settles O29: with trailing count 1 every step commutes with replacing W1. -/
theorem delimiterByteIsNeverInterpreted : Obligations.DelimiterByteIsNeverInterpreted := by
  intro s t w hn hst hstep
  obtain ⟨w', h⟩ := step_withW1 hst hn w
  rw [hstep] at h
  exact ⟨w', h⟩

end Sys2Proof
end

section
/-! A run of a well-behaved host, step by step: how many codes a state has still to decode. -/

namespace Sys2Proof.Machine

open Sys2Proof.Safety

/-! ### The steps of such a run -/

theorem nextAnswer_wellBehaved {s : State} {bytes : List Byte} (h : WellBehaved s bytes) :
    nextAnswer s = some (wellBehavedAnswer bytes, { s with stream := some (bytes.drop 3) }) := by
  simp only [nextAnswer, h.answers, h.stream]

theorem wellBehavedAnswer_k (bytes : List Byte) : (wellBehavedAnswer bytes).k.toNat = min 3 bytes.length := by
  match bytes with
  | [] => rfl
  | [a] => rfl
  | [a, b] => rfl
  | a :: b :: c :: rest =>
    have h : min 3 (rest.length + 1 + 1 + 1) = 3 := by omega
    exact h.symm

theorem step_of_no_turns {s : State} (h : s.turns = []) : step s = outcomeOf (engineFetch s) := by
  rw [step_eq_outcomeOf, fetch, h]

theorem step_read0 {s : State} {bytes : List Byte} (hst : s.st = .read0) (h : WellBehaved s bytes) :
    step s = read0Step (wellBehavedAnswer bytes).k (wellBehavedAnswer bytes).l0 (wellBehavedAnswer bytes).l1
      (wellBehavedAnswer bytes).l2 { s with stream := some (bytes.drop 3) } := by
  rw [step_of_no_turns h.turns]
  simp only [engineFetch, hst, nextAnswer_wellBehaved h, outcomeOf_read0]

theorem step_read1 {s : State} {bytes : List Byte} (hst : s.st = .read1) (h : WellBehaved s bytes) :
    step s = read1Step (wellBehavedAnswer bytes).k (wellBehavedAnswer bytes).l0 (wellBehavedAnswer bytes).l1
      (wellBehavedAnswer bytes).l2 { s with stream := some (bytes.drop 3) } := by
  rw [step_of_no_turns h.turns]
  simp only [engineFetch, hst, nextAnswer_wellBehaved h, outcomeOf_read1]

theorem step_code {s : State} (hst : InCodeStep s) (h : s.turns = []) : ∃ c, step s = codeStep c s := by
  rw [step_of_no_turns h]
  obtain hst | hst := hst
  · exact ⟨_, outcomeOf_engine_code1 hst⟩
  · exact ⟨_, outcomeOf_engine_code2 hst⟩

/-- A host that accepts every byte is never waited for: a code step raises an error or its code passes. -/
theorem codeStep_unbounded {c : Code} {s t : State} (hroom : s.room = none) (h : codeStep c s = .next t) :
    t.st = .error ∨ ∃ u, processCode c s = .passed u ∧ t = afterCode s u := by
  obtain ⟨-, ⟨-, rfl⟩ | ⟨-, -, hp | hp⟩⟩ := codeStep_next h
  · exact .inl rfl
  · obtain ⟨-, rfl⟩ | ⟨e, -, -, -, rfl⟩ | ⟨e, -, -, -, hwait, -⟩ := processCode_ended hp
    · exact .inl rfl
    · exact .inl rfl
    · rw [emit_sent, hroom, List.length_drop, acceptedOf] at hwait
      omega
  · exact .inr hp

/-- What a code that passes leaves as it was, and that it is counted (R144 to R146). -/
structure CodeCounted (s t : State) : Prop where
  codeCount : t.codeCount = s.codeCount + 1
  n : t.n = s.n
  inCount : t.inCount = s.inCount
  answers : t.answers = s.answers
  stream : t.stream = s.stream
  turns : t.turns = s.turns
  room : s.room = none → t.room = none

theorem processCode_counted {c : Code} {s u : State} (h : processCode c s = .passed u) : CodeCounted s u := by
  obtain ⟨e, v, -, -, -, -, hv, rfl⟩ := processCode_passed h
  have hframe := dictUpdate_frame hv
  generalize hp : e.drop s.sent = p at hframe
  rw [hframe]
  exact ⟨congrArg (· + 1) (emit_codeCount p s), emit_n p s, emit_inCount p s, emit_answers p s, emit_stream p s,
    emit_turns p s, fun hroom => (emit_room p s).trans (by rw [hroom]; rfl)⟩

theorem afterCode_counted {s u : State} (h : CodeCounted s u) : CodeCounted s (afterCode s u) := by
  obtain ⟨x, w, hx⟩ := afterCode_eq s u
  rw [hx]
  exact ⟨h.codeCount, h.n, h.inCount, h.answers, h.stream, h.turns, h.room⟩

end Sys2Proof.Machine
end

section
/-! The account of a run of a well-behaved host: how many codes each of its states has still to decode. -/

namespace Sys2Proof.Machine

open Sys2Proof.Safety

/-! ### The codes still to be decoded -/

/-- How many code steps a state of a run to DONE has before it, with so many bytes of the stream undelivered: the table
of rule R86, read from each state. The window in W0 counts as three bytes, since where it lacks some the stream has
ended and both lengths give one code. -/
def codesDue (s : State) (undelivered : Nat) : Nat :=
  match s.st with
  | .read0 => codesOfLength undelivered
  | .read1 => codesOfLength (undelivered + 3)
  | .code1 => if s.n = 0#3 then 1 else if s.n = 1#3 then 2 else 2 + codesOfLength (undelivered + 3)
  | .code2 => if s.n = 1#3 then 1 else 1 + codesOfLength (undelivered + 3)
  | .idle => 0
  | .done => 0
  | .error => 0

/-- The account of a run over a stream of `len` bytes after `c` code steps: the counters agree with what has been taken
and with what is left (R30), and the stream is at its end in DONE and behind a count below three (R233). -/
structure Account (len c : Nat) (s : State) (bytes : List Byte) : Prop where
  host : WellBehaved s bytes
  codeCount : s.codeCount = BitVec.ofNat 32 c
  inCount : s.inCount + BitVec.ofNat 32 bytes.length = BitVec.ofNat 32 len
  due : c + codesDue s bytes.length = codesOfLength len
  ended : s.st = .done → bytes = []
  short : InCodeStep s → s.n ≠ 3#3 → bytes = []

/-- A stream of one to three bytes is one window with nothing behind it (R86). -/
theorem codesOfLength_first {len : Nat} (h : len ≠ 0) : codesOfLength (len - 3 + 3) = codesOfLength len := by
  obtain h3 | h3 := Nat.lt_or_ge len 3
  · interval_cases len
    · exact absurd rfl h
    · rfl
    · rfl
  · rw [Nat.sub_add_cancel h3]

/-- A full window in front of three bytes or more holds two codes (R86). -/
theorem codesOfLength_add_three {len : Nat} (h : 3 ≤ len) : codesOfLength (len + 3) = 2 + codesOfLength len := by
  have hdiv : (len + 3) / 3 = len / 3 + 1 := by omega
  have hmod : (len + 3) % 3 = len % 3 := by omega
  have hpos : 1 ≤ len / 3 := by omega
  unfold codesOfLength
  rw [if_neg (by omega), if_neg (by omega), if_neg (by omega : ¬ len = 0), if_neg (by omega : ¬ len = 1), hdiv, hmod]
  split_ifs <;> omega

theorem account_of_started {s : State} {bytes : List Byte} (hinv : Inv s) (hst : s.st = .read0)
    (h : WellBehaved s bytes) : Account bytes.length 0 s bytes := by
  have hstart := hinv.read0_is_started hst
  have hcode : s.codeCount = 0#32 := by rw [← hstart]; rfl
  have hin : s.inCount = 0#32 := by rw [← hstart]; rfl
  exact {
    host := h
    codeCount := hcode
    inCount := by rw [hin, BitVec.zero_add]
    due := by rw [codesDue, hst, Nat.zero_add]
    ended := by simp [hst]
    short := by simp [InCodeStep, hst] }

/-! ### The read steps keep the account -/

/-- A read moves bytes from the stream to IN_COUNT (R142, R143, R233). -/
theorem inCount_delivered (x : Word) (bytes : List Byte) :
    x + (wellBehavedAnswer bytes).k.setWidth 32 + BitVec.ofNat 32 (bytes.drop 3).length =
      x + BitVec.ofNat 32 bytes.length := by
  have hlen : (wellBehavedAnswer bytes).k.toNat + (bytes.drop 3).length = bytes.length := by
    rw [wellBehavedAnswer_k, List.length_drop]
    omega
  rw [← BitVec.ofNat_toNat, BitVec.add_assoc, ← BitVec.ofNat_add, hlen]

theorem wellBehavedAnswer_k_eq_zero {bytes : List Byte} : (wellBehavedAnswer bytes).k = 0#3 ↔ bytes = [] := by
  rw [← BitVec.toNat_inj, wellBehavedAnswer_k, ← List.length_eq_zero_iff]
  simp

/-- A count below three is the end of the stream (R233). -/
theorem drop_of_k_ne_three {bytes : List Byte} (h : (wellBehavedAnswer bytes).k ≠ 3#3) : bytes.drop 3 = [] := by
  rw [← BitVec.toNat_inj.ne, wellBehavedAnswer_k] at h
  have h3 : min 3 bytes.length ≠ 3 := h
  exact List.drop_eq_nil_of_le (by omega)

theorem wellBehaved_delivered {s t : State} {bytes : List Byte} (h : WellBehaved s bytes)
    (hstream : t.stream = some (bytes.drop 3)) (hans : t.answers = s.answers) (hroom : t.room = s.room)
    (hturns : t.turns = s.turns) : WellBehaved t (bytes.drop 3) :=
  ⟨hans.trans h.answers, hstream, hroom.trans h.sink, hturns.trans h.turns⟩

theorem read0_account {len c : Nat} {s t : State} {bytes : List Byte} (h : Account len c s bytes)
    (hst : s.st = .read0) (hstep : step s = .next t) : t.st = .error ∨ Account len c t (bytes.drop 3) := by
  have hdue : c + codesOfLength bytes.length = codesOfLength len := by simpa only [codesDue, hst] using h.due
  have hin := (inCount_delivered s.inCount bytes).trans h.inCount
  rw [step_read0 hst h.host] at hstep
  obtain ⟨-, ⟨-, rfl⟩ | ⟨hk, rfl⟩ | ⟨-, hk, rfl⟩⟩ := read0Step_next hstep
  · exact .inl rfl
  · obtain rfl := wellBehavedAnswer_k_eq_zero.1 hk
    exact .inr ⟨wellBehaved_delivered h.host rfl rfl rfl rfl, h.codeCount, hin, hdue, fun _ => rfl, by simp [InCodeStep]⟩
  · have hne : bytes.length ≠ 0 := fun h0 => hk (wellBehavedAnswer_k_eq_zero.2 (List.length_eq_zero_iff.1 h0))
    refine .inr ⟨wellBehaved_delivered h.host rfl rfl rfl rfl, h.codeCount, hin, ?_, by simp, by simp [InCodeStep]⟩
    rw [List.length_drop]
    exact (congrArg (c + ·) (codesOfLength_first hne)).trans hdue

/-- The count of a read at READ1 gives the codes of the window before it (R86). -/
theorem codesDue_read1 {s t : State} {bytes : List Byte} (hs : s.st = .read1) (ht : t.st = .code1)
    (hn : t.n = (wellBehavedAnswer bytes).k) :
    codesDue t (bytes.drop 3).length = codesDue s bytes.length := by
  simp only [codesDue, hs, ht, hn]
  match bytes with
  | [] => rfl
  | [_] => simp [wellBehavedAnswer, codesOfLength]
  | [_, _] => simp [wellBehavedAnswer, codesOfLength]
  | _ :: _ :: _ :: rest => exact (codesOfLength_add_three (Nat.le_add_left 3 rest.length)).symm

theorem read1_account {len c : Nat} {s t : State} {bytes : List Byte} (h : Account len c s bytes)
    (hst : s.st = .read1) (hstep : step s = .next t) : t.st = .error ∨ Account len c t (bytes.drop 3) := by
  have hin := (inCount_delivered s.inCount bytes).trans h.inCount
  rw [step_read1 hst h.host] at hstep
  obtain ⟨-, ⟨-, rfl⟩ | ⟨-, rfl⟩⟩ := read1Step_next hstep
  · exact .inl rfl
  · refine .inr ⟨wellBehaved_delivered h.host rfl rfl rfl rfl, h.codeCount, hin, ?_, by simp, fun _ => drop_of_k_ne_three⟩
    exact (congrArg (c + ·) (codesDue_read1 hst rfl rfl)).trans h.due

/-! ### The code steps keep the account -/

/-- A code that passes is one code fewer to decode. -/
theorem codesDue_afterCode {s u : State} (hst : InCodeStep s) (hn : u.n = s.n) (undelivered : Nat) :
    codesDue s undelivered = 1 + codesDue (afterCode s u) undelivered := by
  obtain h | h := hst
  · by_cases h0 : s.n = 0#3
    · simp [codesDue, afterCode, h, h0]
    · by_cases h1 : s.n = 1#3
      · simp [codesDue, afterCode, h, hn, h1]
      · simp [codesDue, afterCode, h, hn, h0, h1, ← Nat.add_assoc]
  · by_cases h1 : s.n = 1#3
    · simp [codesDue, afterCode, h, h1]
    · simp [codesDue, afterCode, h, h1]

theorem code_account {len c : Nat} {s t : State} {bytes : List Byte} (h : Account len c s bytes)
    (hst : InCodeStep s) (hstep : step s = .next t) : t.st = .error ∨ Account len (c + 1) t bytes := by
  obtain ⟨code, hcode⟩ := step_code hst h.host.turns
  obtain herr | ⟨u, hu, rfl⟩ := codeStep_unbounded h.host.sink (hcode.symm.trans hstep)
  · exact .inl herr
  have hcounted := processCode_counted hu
  have hkept := afterCode_counted hcounted
  have hdue := h.due
  rw [codesDue_afterCode hst hcounted.n, ← Nat.add_assoc] at hdue
  refine .inr ⟨⟨?_, ?_, ?_, ?_⟩, ?_, ?_, hdue, fun hdone => ?_, fun _ hn => ?_⟩
  · rw [hkept.answers, h.host.answers]
  · rw [hkept.stream, h.host.stream]
  · exact hkept.room h.host.sink
  · rw [hkept.turns, h.host.turns]
  · rw [hkept.codeCount, h.codeCount, BitVec.ofNat_add]
    rfl
  · rw [hkept.inCount, h.inCount]
  · refine h.short hst fun h3 => ?_
    rw [afterCode_st, h3, if_neg (by decide : ¬ 3#3 = 0#3), if_neg (by decide : ¬ 3#3 = 1#3)] at hdone
    split_ifs at hdone
  · rw [hkept.n] at hn
    exact h.short hst hn

/-! ### The run -/

/-- A run that has taken an error exit takes no further step, so a run to DONE keeps its account. -/
theorem account_of_run {len c c' r : Nat} {s t : State} {bytes : List Byte} (hrun : RunsTo s r c' t)
    (h : s.st = .error ∨ Account len c s bytes) (hdone : t.st = .done) :
    ∃ rest, Account len (c + c') t rest := by
  induction hrun generalizing c bytes with
  | refl s =>
    obtain herr | h := h
    · exact absurd (herr.symm.trans hdone) (by decide)
    · exact ⟨bytes, h⟩
  | read hs hstep _ ih =>
    obtain herr | h := h
    · exact absurd hs (by simp [herr])
    · obtain hst | hst := hs
      · exact ih (read0_account h hst hstep) hdone
      · exact ih (read1_account h hst hstep) hdone
  | code hs hstep _ ih =>
    obtain herr | h := h
    · exact absurd hs (by simp [herr])
    · obtain ⟨rest, hrest⟩ := ih (code_account h hs hstep) hdone
      exact ⟨rest, by rwa [Nat.add_assoc, Nat.add_comm 1] at hrest⟩

end Sys2Proof.Machine
end

section
/-! The statement of 30_encoding.md about a run's codes. -/

namespace Sys2Proof

open Sys2Proof.Machine Sys2Proof.Safety

/-- Settles O55, by the account of the run, which in DONE has no code and no byte left. -/
theorem doneRunDecodesTheCodesOfItsLength : Obligations.DoneRunDecodesTheCodesOfItsLength := by
  intro s t bytes r c hinv hst hhost hrun hdone
  obtain ⟨rest, h⟩ := account_of_run hrun (.inr (account_of_started hinv hst hhost)) hdone
  obtain rfl := h.ended hdone
  have hc : c = codesOfLength bytes.length := by
    have hdue := h.due
    rwa [codesDue, hdone, Nat.add_zero, Nat.zero_add] at hdue
  have hin : t.inCount + 0#32 = BitVec.ofNat 32 bytes.length := h.inCount
  rw [BitVec.add_zero] at hin
  exact ⟨hc, by rw [h.codeCount, Nat.zero_add, hc], hin, h.host.stream⟩

end Sys2Proof
end

section
/-! The invariant, taken apart: the dictionary's part and how the update keeps it, the lookahead window's part, and the
states that each kind of move reaches. -/

namespace Sys2Proof.Machine

open Sys2Proof.Safety

/-! ### The dictionary's part -/

/-- The table's entries, beside their slots, are within the store's bound (R6, R146). -/
structure DictStored (size : BitVec 13) (d : Dict) : Prop extends DictSound size d where
  bounded : ∀ p ∈ d, WithinBound p.2

/-- The dictionary's part of the invariant (R107). -/
structure DictInv (size : BitVec 13) (d : Dict) : Prop extends DictStored size d where
  provisional : ∀ e, 257 ≤ size.toNat → dictRead d (size.toNat - 1) = some e → EndsAsItBegins e

theorem dictInv_of_inv {s : State} (h : Inv s) : DictInv s.size s.dict :=
  ⟨⟨dictSound_of_inv h, h.bounded⟩, h.provisional⟩

/-- The dictionary after DICT_INIT and DICT_RESET (R100, R101). -/
theorem dictStored_fresh : DictStored 256 [] :=
  (dictInv_of_inv resetStateMeetsTheInvariant).toDictStored

/-- What holds of every listed entry and of the entry written holds of every entry after the write. -/
theorem forall_mem_dictWrite {P : Entry → Prop} {d : Dict} {e : Entry} (h : ∀ p ∈ d, P p.2) (he : P e) (slot : Nat) :
    ∀ p ∈ dictWrite slot e d, P p.2 := by
  intro p hp
  unfold dictWrite at hp
  split at hp
  · exact h p hp
  · obtain rfl | hp := mem_dictPut hp
    · exact he
    · exact h p hp

/-- Writing a populated dynamic slot. -/
theorem DictStored.overwrite {size : BitVec 13} {d : Dict} (hd : DictStored size d) {k : Nat} {e : Entry}
    (hlow : 256 ≤ k) (hk : k < size.toNat) (hlong : 2 ≤ e.length) (hbound : WithinBound e) :
    DictStored size (dictWrite k e d) where
  low := hd.low
  high := hd.high
  populated := by
    rw [dictWrite, if_neg (by omega)]
    exact keys_put_in e hd.populated hlow (by omega)
  long := forall_mem_dictWrite (P := fun f => 2 ≤ f.length) hd.long hlong k
  bounded := forall_mem_dictWrite hd.bounded hbound k

/-- Writing slot `size` below 4096 (R106). -/
theorem DictStored.append {size : BitVec 13} {d : Dict} (hd : DictStored size d) {e : Entry}
    (hroom : size.toNat < 4096) (hlong : 2 ≤ e.length) (hbound : WithinBound e) :
    DictStored (size + 1) (dictWrite size.toNat e d) := by
  have hlow := hd.low
  have hgrown : (size + 1).toNat = size.toNat + 1 := by bv_omega
  have hkeys := keys_put_past e hd.populated
  rw [Nat.add_sub_cancel' hlow] at hkeys
  exact {
    low := by omega
    high := by omega
    populated := by
      rw [dictWrite, if_neg (by omega), hkeys, hgrown, Nat.sub_add_comm hlow]
    long := forall_mem_dictWrite (P := fun f => 2 ≤ f.length) hd.long hlong _
    bounded := forall_mem_dictWrite hd.bounded hbound _ }

theorem withinBound_of_length_eq {e f : Entry} (hlen : f.length = e.length) (h : WithinBound e) : WithinBound f :=
  fun m hm => hlen ▸ h m hm

/-- The entry that an update appends is within the bound that the check of rule R146 asks for. -/
theorem withinBound_append {e : Entry} (h : UpdateFits e) (b : Byte) : WithinBound (e ++ [b]) := by
  intro m hm
  rw [List.length_append]
  exact h m hm

theorem patchStep_stored {b : Byte} {s t : State} (hd : DictStored s.size s.dict) (h : patchStep b s = .ok t) :
    DictStored t.size t.dict := by
  obtain ⟨-, rfl⟩ | ⟨hlow, p, hp, -, rfl⟩ := patchStep_ok h
  · exact hd
  · have hmem : (s.size.toNat - 1, p) ∈ s.dict := mem_of_dictFind ((dictRead_dynamic _ _ hlow).symm.trans hp)
    have hlen := setLast_length p b
    exact hd.overwrite hlow (by omega) (hlen ▸ hd.long _ hmem) (withinBound_of_length_eq hlen (hd.bounded _ hmem))

theorem fullStep_stored {s : State} (hd : DictStored s.size s.dict) :
    DictStored (fullStep s).size (fullStep s).dict := by
  unfold fullStep
  split
  · exact dictStored_fresh
  · exact hd

theorem dictUpdate_stored {c : Code} {e : Entry} {s t : State} (hd : DictStored s.size s.dict)
    (hr : dictRead s.dict c.toNat = some e) (hf : UpdateFits e) (h : dictUpdate c s = .ok t) :
    DictStored t.size t.dict := by
  obtain ⟨b, rest, u, -, hr', hu, ha⟩ := dictUpdate_ok h
  obtain rfl : e = b :: rest := Option.some.inj (hr.symm.trans hr')
  obtain ⟨hroom, rfl⟩ := appendStep_ok ha
  exact (fullStep_stored (patchStep_stored hd hu)).append hroom (by simp) (withinBound_append hf b)

/-- The entry an update appends is the new provisional entry, which ends as it begins (R28, R107.4). -/
theorem endsAsItBegins_append {e : Entry} {b : Byte} (hb : e.head? = some b) : EndsAsItBegins (e ++ [b]) :=
  ⟨b, by simp [hb], by simp⟩

theorem dictUpdated_provisional_read {s t : State} {e : Entry} {b : Byte} (h : DictUpdated s t e b)
    (hhigh : s.size.toNat ≤ 4096) : dictRead t.dict (t.size.toNat - 1) = some (e ++ [b]) := by
  obtain hlt | hfull := Nat.lt_or_eq_of_le hhigh
  · have hslot : (s.size + 1).toNat - 1 = s.size.toNat := by bv_omega
    rw [(h.grown hlt).1, hslot]
    exact h.appended hlt
  · obtain ⟨hsize, -, hread, -⟩ := h.renewed hfull
    rw [hsize]
    exact hread

/-- DICT_UPDATE keeps the dictionary's part of the invariant (R103, R107). -/
theorem dictUpdate_dictInv {c : Code} {e : Entry} {s t : State} (hd : DictInv s.size s.dict)
    (hr : dictRead s.dict c.toNat = some e) (hf : UpdateFits e) (h : dictUpdate c s = .ok t) :
    DictInv t.size t.dict := by
  refine ⟨dictUpdate_stored hd.toDictStored hr hf h, fun p _ hp => ?_⟩
  obtain ⟨b, hb, hupd⟩ := dictUpdate_updated hd.low hr h
  obtain rfl : p = e ++ [b] := Option.some.inj (hp.symm.trans (dictUpdated_provisional_read hupd hd.high))
  exact endsAsItBegins_append hb

/-! ### The lookahead window's part -/

/-- The trailing count is legal, and the lanes of the lookahead window past it are 0 (R22, R23). -/
structure LookaheadSound (n : BitVec 3) (w : Window) : Prop where
  legal : n.toNat ≤ 3
  filled : (n.toNat ≤ 0 → w.b0 = 0) ∧ (n.toNat ≤ 1 → w.b1 = 0) ∧ (n.toNat ≤ 2 → w.b2 = 0)

theorem lookaheadSound_of_inv {s : State} (h : Inv s) : LookaheadSound s.n s.W1 := ⟨h.n_legal, h.w1_filled⟩

theorem lookaheadSound_fillLanes {k : BitVec 3} (hk : k.toNat ≤ 3) (l0 l1 l2 : Byte) :
    LookaheadSound k (fillLanes k l0 l1 l2) :=
  ⟨hk, fun h => if_neg (by omega), fun h => if_neg (by omega), fun h => if_neg (by omega)⟩

/-! ### The host's side -/

/-- The engine of `s` with the host's side of `h`: what the host offers, accepts, has got and has read, the schedule
and the free values. -/
def withHostOf (h s : State) : State :=
  { s with
    answers := h.answers, stream := h.stream, room := h.room, out := h.out, readLog := h.readLog, turns := h.turns,
    draws := h.draws }

/-- The invariant speaks of the engine only. -/
theorem inv_withHostOf {s : State} (hs : Inv s) (h : State) : Inv (withHostOf h s) :=
  { hs with
    idle_is_reset := fun hst => congrArg (withHostOf h) (hs.idle_is_reset hst)
    read0_is_started := fun hst => congrArg (withHostOf h) (hs.read0_is_started hst) }

theorem inv_takeTurn {s : State} (h : Inv s) : Inv (takeTurn s) := inv_withHostOf h (takeTurn s)

theorem nextAnswer_withHostOf {s t : State} {a : Answer} (h : nextAnswer s = some (a, t)) : t = withHostOf t s := by
  rw [nextAnswer_some h]
  rfl

theorem nextAnswer_st {s t : State} {a : Answer} (h : nextAnswer s = some (a, t)) : t.st = s.st := by
  rw [nextAnswer_some h]

theorem inv_nextAnswer {s t : State} {a : Answer} (hs : Inv s) (h : nextAnswer s = some (a, t)) : Inv t := by
  rw [nextAnswer_withHostOf h]
  exact inv_withHostOf hs t

/-! ### The states a move reaches -/

/-- SRST and engine reset leave the engine as State.reset has it (R43, R172). -/
theorem inv_resetEngine (s : State) : Inv (resetEngine s) :=
  inv_withHostOf resetStateMeetsTheInvariant (cutOutput s)

/-- START leaves the dictionary fresh, nothing sent and no error recorded (R170). -/
theorem inv_startRun (s : State) : Inv (startRun s) :=
  { resetStateMeetsTheInvariant with
    n_second := fun hst => absurd hst (by simp)
    no_error := fun _ => ⟨rfl, rfl⟩
    error_recorded := fun hst => absurd hst (by simp)
    idle_is_reset := fun hst => absurd hst (by simp)
    read0_is_started := fun _ => rfl
    sending := fun hsent => absurd rfl hsent }

/-- A step that has sent bytes is a code step (R141). -/
theorem sent_eq_zero {s : State} (h : Inv s) (hst : ¬ InCodeStep s) : s.sent = 0 := by
  by_contra hsent
  obtain ⟨e, he, -⟩ := h.sending hsent
  obtain ⟨c, hc, -⟩ := entryInProgress_some he
  exact hst (hc.imp And.left And.left)

/-- A run that goes on to a read at READ1 or to a code step, or is DONE, and has no step in progress. -/
theorem inv_of_running {t : State} (hd : DictInv t.size t.dict) (hw : LookaheadSound t.n t.W1)
    (herr : t.errCode = 0 ∧ t.errInfo = 0) (hsent : t.sent = 0)
    (hst : t.st = .code1 ∨ t.st = .done ∨ t.st = .read1 ∨ (t.st = .code2 ∧ t.n ≠ 0#3)) : Inv t where
  size_low := hd.low
  size_high := hd.high
  populated := hd.populated
  long := hd.long
  bounded := hd.bounded
  provisional := hd.provisional
  n_legal := hw.legal
  n_second := fun h => by simpa [h] using hst
  w1_filled := hw.filled
  no_error := fun _ => herr
  error_recorded := fun h => by simp [h] at hst
  idle_is_reset := fun h => by simp [h] at hst
  read0_is_started := fun h => by simp [h] at hst
  sending := fun h => absurd hsent h

/-- The error exit of a step that has sent nothing (R205). -/
theorem inv_raiseError {s : State} (h : Inv s) (hsent : s.sent = 0) (err : EngineError) (arg : BitVec 16) :
    Inv (raiseError err arg s) :=
  { h with
    n_second := fun hst => absurd hst (by simp)
    no_error := fun hst => absurd rfl hst
    error_recorded := fun _ => ⟨err, arg, rfl, rfl⟩
    idle_is_reset := fun hst => absurd hst (by simp)
    read0_is_started := fun hst => absurd hst (by simp)
    sending := fun hne => absurd hsent hne }

theorem emit_entryInProgress (p : Entry) (s : State) : entryInProgress (emit p s) = entryInProgress s := by
  rw [emit_eq]
  rfl

/-- A code step that waits with some of its entry sent and more of it to send (R63, R141). -/
theorem inv_emit {s : State} (h : Inv s) (hst : InCodeStep s) {p e : Entry} (he : entryInProgress s = some e)
    (hlt : (emit p s).sent < e.length) : Inv (emit p s) := by
  have hidle : s.st ≠ .idle := fun h => by simp [InCodeStep, h] at hst
  have hread : s.st ≠ .read0 := fun h => by simp [InCodeStep, h] at hst
  have hsending : ∃ e, entryInProgress (emit p s) = some e ∧ (emit p s).sent < e.length :=
    ⟨e, (emit_entryInProgress p s).trans he, hlt⟩
  rw [emit_eq] at hsending ⊢
  exact { h with
    idle_is_reset := fun h => absurd h hidle
    read0_is_started := fun h => absurd h hread
    sending := fun _ => hsending }

end Sys2Proof.Machine
end

section
/-! Every step from a state of the invariant completes, in a state of the invariant: the read steps, the code steps, and
what each turn of the schedule runs. -/

namespace Sys2Proof.Machine

open Sys2Proof.Safety

/-! ### The read steps -/

theorem read0Step_completes {k : BitVec 3} {l0 l1 l2 : Byte} {s : State} (hst : s.st = .read0) :
    Completes (read0Step k l0 l1 l2 s) := by
  simp only [read0Step, hst]
  split
  · exact ⟨_, rfl⟩
  · split <;> exact ⟨_, rfl⟩

theorem read1Step_completes {k : BitVec 3} {l0 l1 l2 : Byte} {s : State} (hst : s.st = .read1) :
    Completes (read1Step k l0 l1 l2 s) := by
  simp only [read1Step, hst]
  split <;> exact ⟨_, rfl⟩

theorem read0Step_inv {k : BitVec 3} {l0 l1 l2 : Byte} {s t : State} (h : Inv s)
    (hstep : read0Step k l0 l1 l2 s = .next t) : Inv t := by
  obtain ⟨hst, hcase⟩ := read0Step_next hstep
  have hsent : s.sent = 0 := sent_eq_zero h (by simp [InCodeStep, hst])
  have herr : s.errCode = 0 ∧ s.errInfo = 0 := h.no_error (by simp [hst])
  have hd := dictInv_of_inv h
  have hw := lookaheadSound_of_inv h
  obtain ⟨-, rfl⟩ | ⟨-, rfl⟩ | ⟨-, -, rfl⟩ := hcase
  · exact inv_raiseError h hsent _ _
  · exact inv_of_running hd hw herr hsent (.inr (.inl rfl))
  · exact inv_of_running hd hw herr hsent (.inr (.inr (.inl rfl)))

theorem read1Step_inv {k : BitVec 3} {l0 l1 l2 : Byte} {s t : State} (h : Inv s)
    (hstep : read1Step k l0 l1 l2 s = .next t) : Inv t := by
  obtain ⟨hst, hcase⟩ := read1Step_next hstep
  have hsent : s.sent = 0 := sent_eq_zero h (by simp [InCodeStep, hst])
  have herr : s.errCode = 0 ∧ s.errInfo = 0 := h.no_error (by simp [hst])
  have hd := dictInv_of_inv h
  obtain ⟨-, rfl⟩ | ⟨hk, rfl⟩ := hcase
  · exact inv_raiseError h hsent _ _
  · exact inv_of_running hd (lookaheadSound_fillLanes hk l0 l1 l2) herr hsent (.inl rfl)

/-! ### The code steps -/

/-- The code that a code step finds in W0 (R144, R145). -/
def CodeOfStep (s : State) (c : Code) : Prop :=
  (s.st = .code1 ∧ c = unpackCode1 s.W0) ∨ (s.st = .code2 ∧ c = unpackCode2 s.W0)

theorem CodeOfStep.inCodeStep {s : State} {c : Code} (h : CodeOfStep s c) : InCodeStep s := h.imp And.left And.left

theorem CodeOfStep.unique {s : State} {c d : Code} (hc : CodeOfStep s c) (hd : CodeOfStep s d) : c = d := by
  obtain ⟨hst, rfl⟩ | ⟨hst, rfl⟩ := hc
  · simpa [CodeOfStep, hst, eq_comm] using hd
  · simpa [CodeOfStep, hst, eq_comm] using hd

/-- A code step whose code passes the checks has that code's entry in progress (R146). -/
theorem entryInProgress_eq {s : State} {c : Code} {e : Entry} (h : Inv s) (hcode : CodeOfStep s c)
    (hc : c.toNat < s.size.toNat) (hr : dictRead s.dict c.toNat = some e) (hf : UpdateFits e) :
    entryInProgress s = some e := by
  have hnot : ¬ s.size.toNat ≤ c.toNat := by omega
  have hfits : entryFits e.length = true := (entryFits_iff e).2 hf
  have hcount : s.n = 0#3 ∨ s.n = 1#3 ∨ s.n = 2#3 ∨ s.n = 3#3 := by
    have hlegal := h.n_legal
    bv_omega
  obtain ⟨hst, rfl⟩ | ⟨hst, rfl⟩ := hcode
  · obtain hn | hn | hn | hn := hcount <;> simp [entryInProgress, hst, parse, hn, hnot, hr, hfits]
  · obtain hn | hn | hn := hcount.resolve_left (h.n_second hst) <;>
      simp [entryInProgress, hst, parse, hn, hnot, hr, hfits]

/-- A code that fails a check has sent nothing: a step in progress has passed the checks (R141, R146). -/
theorem sent_eq_zero_of_check {s : State} {c : Code} (h : Inv s) (hcode : CodeOfStep s c)
    (hfail : ∀ e, c.toNat < s.size.toNat → dictRead s.dict c.toNat = some e → ¬ UpdateFits e) : s.sent = 0 := by
  by_contra hsent
  obtain ⟨e, he, -⟩ := h.sending hsent
  obtain ⟨d, hd, hlt, hr, hf⟩ := entryInProgress_some he
  obtain rfl : c = d := hcode.unique hd
  exact hfail e hlt hr hf

theorem processCode_ended_inv {c : Code} {s t : State} (h : Inv s) (hcode : CodeOfStep s c)
    (hp : processCode c s = .ended t) : Inv t := by
  obtain ⟨hc, rfl⟩ | ⟨e, -, hr, hf, rfl⟩ | ⟨e, hc, hr, hf, hlt, rfl⟩ := processCode_ended hp
  · exact inv_raiseError h (sent_eq_zero_of_check h hcode fun _ hlt => absurd hlt (by omega)) _ _
  · refine inv_raiseError h (sent_eq_zero_of_check h hcode fun p _ hr' => ?_) _ _
    obtain rfl : e = p := Option.some.inj (hr.symm.trans hr')
    exact hf
  · exact inv_emit h hcode.inCodeStep (entryInProgress_eq h hcode hc hr hf) hlt

/-- What the invariant needs of the state `u` in which the code of a step from `s` has passed: the dictionary updated
soundly, no byte in progress, and the rest of the engine as in `s`. -/
structure PassedSound (s u : State) : Prop where
  dict : DictInv u.size u.dict
  W0 : u.W0 = s.W0
  n : u.n = s.n
  W1 : u.W1 = s.W1
  errCode : u.errCode = s.errCode
  errInfo : u.errInfo = s.errInfo
  sent : u.sent = 0

theorem processCode_passedSound {c : Code} {s t : State} (h : Inv s) (hp : processCode c s = .passed t) :
    PassedSound s t := by
  obtain ⟨e, u, -, hr, hf, -, hu, rfl⟩ := processCode_passed hp
  generalize e.drop s.sent = p at hu
  have hdict : DictInv u.size u.dict :=
    dictUpdate_dictInv (by simpa using dictInv_of_inv h) (by simpa using hr) hf hu
  rw [dictUpdate_frame hu]
  exact ⟨hdict, emit_W0 p s, emit_n p s, emit_W1 p s, emit_errCode p s, emit_errInfo p s, rfl⟩

/-- CODE2 is entered only with a trailing count that has a second code (R140, R144). -/
theorem afterCode_next (s u : State) : (afterCode s u).st = .done ∨ (afterCode s u).st = .read1 ∨
    ((afterCode s u).st = .code2 ∧ s.n ≠ 0#3) := by
  rw [afterCode_st]
  split_ifs <;> simp [*]

theorem afterCode_inv {s u : State} (h : Inv s) (hst : InCodeStep s) (hu : PassedSound s u) :
    Inv (afterCode s u) := by
  have herr : s.errCode = 0 ∧ s.errInfo = 0 := h.no_error fun he => by simp [InCodeStep, he] at hst
  have hw : LookaheadSound u.n u.W1 := by
    rw [hu.n, hu.W1]
    exact lookaheadSound_of_inv h
  have hnext := afterCode_next s u
  obtain ⟨x, w, hx⟩ := afterCode_eq s u
  rw [hx] at hnext ⊢
  rw [← hu.n] at hnext
  exact inv_of_running hu.dict hw ⟨hu.errCode.trans herr.1, hu.errInfo.trans herr.2⟩ hu.sent (.inr hnext)

theorem codeStep_inv {c : Code} {s t : State} (h : Inv s) (hcode : CodeOfStep s c)
    (hstep : codeStep c s = .next t) : Inv t := by
  obtain ⟨-, ⟨hn, -⟩ | ⟨-, -, hp | ⟨u, hp, rfl⟩⟩⟩ := codeStep_next hstep
  · exact absurd h.n_legal (by omega)
  · exact processCode_ended_inv h hcode hp
  · exact afterCode_inv h hcode.inCodeStep (processCode_passedSound h hp)

/-- The update and the count complete, as the contracts of the dictionary hold (R109). -/
theorem finishCode_not_stopped {c : Code} {s : State} (hd : DictSound s.size s.dict) (hc : c.toNat < s.size.toNat)
    (r : Fault) : finishCode c s ≠ .stopped r := by
  obtain ⟨u, hu⟩ := dictUpdate_completes (s := endTransfer s) hd hc
  rw [finishCode, hu]
  nofun

/-- No code breaks a contract of the dictionary, whatever its class (R61, R109). -/
theorem processCode_not_stopped {s : State} (hd : DictSound s.size s.dict) (c : Code) (r : Fault) :
    processCode c s ≠ .stopped r := by
  unfold processCode
  split
  · nofun
  · rename_i hc
    obtain ⟨b, rest, hr⟩ := hd.read_below (Nat.not_le.1 hc)
    rw [hr]
    dsimp only
    split
    · unfold afterEmission
      split
      · exact finishCode_not_stopped (by simpa using hd) (by simpa using hc) r
      · nofun
    · nofun

theorem codeStep_completes {s : State} (h : Inv s) (hst : InCodeStep s) (c : Code) : Completes (codeStep c s) := by
  rw [codeStep_eq c (codeStep_enabled h hst) h.n_legal]
  cases hp : processCode c s with
  | passed u => exact ⟨_, rfl⟩
  | ended u => exact ⟨_, rfl⟩
  | stopped r => exact absurd hp (processCode_not_stopped (dictSound_of_inv h) c r)

/-! ### Windows and tails -/

theorem windowStep_completes {s : State} (h : Inv s) (hst : s.st = .code1) :
    Completes (windowStep (unpackCode1 s.W0) (unpackCode2 s.W0) s) := by
  obtain ⟨u, hu⟩ := codeStep_completes h (.inl hst) (unpackCode1 s.W0)
  have hinv : Inv u := codeStep_inv h (.inl ⟨hst, rfl⟩) hu
  simp only [windowStep, hst, hu]
  split
  · exact codeStep_completes hinv (.inr ‹_›) _
  · exact ⟨u, rfl⟩

/-- The step CODE1 leaves the window in place (R144). -/
theorem codeStep_W0 {c : Code} {s t : State} (h : Inv s) (hst : s.st = .code1) (hstep : codeStep c s = .next t) :
    t.W0 = s.W0 := by
  obtain ⟨-, ⟨-, rfl⟩ | ⟨-, -, hp | ⟨u, hp, rfl⟩⟩⟩ := codeStep_next hstep
  · rfl
  · obtain ⟨-, rfl⟩ | ⟨e, -, -, -, rfl⟩ | ⟨e, -, -, -, -, rfl⟩ := processCode_ended hp
    · rfl
    · rfl
    · exact emit_W0 _ s
  · rw [afterCode_W0 (.inl hst), if_neg (by simp [hst])]
    exact (processCode_passedSound h hp).W0

theorem windowStep_inv {s t : State} (h : Inv s)
    (hstep : windowStep (unpackCode1 s.W0) (unpackCode2 s.W0) s = .next t) : Inv t := by
  obtain ⟨hst, u, hu, hcase⟩ := windowStep_next hstep
  have hinv : Inv u := codeStep_inv h (.inl ⟨hst, rfl⟩) hu
  obtain ⟨-, rfl⟩ | ⟨hst2, hu2⟩ := hcase
  · exact hinv
  · exact codeStep_inv hinv (.inr ⟨hst2, by rw [codeStep_W0 h hst hu]⟩) hu2

/-! ### Commands, accesses and the whole step -/

theorem inv_hostAccess {s : State} (h : Inv s) (op : HostOp) : Inv (hostAccess op s) := by
  cases op with
  | read a width =>
    obtain ⟨v, d, hread⟩ := hostRead_eq a width s
    rw [hostAccess, hread]
    exact inv_withHostOf h { s with readLog := s.readLog ++ [v], draws := d }
  | write a width v => exact h
  | reset => exact inv_resetEngine s
  | offer x => exact inv_withHostOf h { s with stream := x }
  | accept x => exact inv_withHostOf h { s with room := x }

theorem inv_startCommand {s : State} (h : Inv s) : Inv (startCommand s) := by
  unfold startCommand
  split
  · exact h
  · exact inv_startRun s

theorem ctrlInstr_inv {v : Word} {s t : State} (h : Inv s) (hstep : exec (ctrlInstr v) s = .next t) : Inv t := by
  rw [exec_ctrlInstr, Host.Outcome.next.injEq] at hstep
  subst hstep
  split
  · exact inv_resetEngine s
  · split
    · exact inv_startCommand h
    · exact h

/-- Whatever a turn runs in a state of the invariant answers a next state (R141). -/
theorem Runs.completes {s : State} {o : Host.Outcome State Fault Refusal} (hr : Runs s o) (h : Inv s) :
    Completes o := by
  cases hr with
  | wait => exact ⟨s, rfl⟩
  | read0 a u hst ha => exact read0Step_completes ((nextAnswer_st ha).trans hst)
  | read1 a u hst ha => exact read1Step_completes ((nextAnswer_st ha).trans hst)
  | lone a u hst ha => exact read1Step_completes ((nextAnswer_st ha).trans hst)
  | code1 hst => exact codeStep_completes h (.inl hst) _
  | code2 hst => exact codeStep_completes h (.inr hst) _
  | window hst => exact windowStep_completes h hst
  | tail hst hn =>
    rw [tailStep_eq hst hn]
    exact codeStep_completes h (.inl hst) _
  | access op => exact ⟨_, rfl⟩
  | ctrl v => exact ⟨_, exec_ctrlInstr v s⟩

/-- Whatever a turn runs in a state of the invariant keeps it. -/
theorem Runs.inv {s t : State} {o : Host.Outcome State Fault Refusal} (hr : Runs s o) (h : Inv s)
    (ho : o = .next t) : Inv t := by
  cases hr with
  | wait =>
    cases ho
    exact h
  | read0 a u _ ha => exact read0Step_inv (inv_nextAnswer h ha) ho
  | read1 a u _ ha => exact read1Step_inv (inv_nextAnswer h ha) ho
  | lone a u _ ha => exact read1Step_inv (inv_nextAnswer h ha) ho
  | code1 hst => exact codeStep_inv h (.inl ⟨hst, rfl⟩) ho
  | code2 hst => exact codeStep_inv h (.inr ⟨hst, rfl⟩) ho
  | window => exact windowStep_inv h ho
  | tail hst =>
    obtain ⟨-, -, hstep⟩ := tailStep_next ho
    exact codeStep_inv h (.inl ⟨hst, rfl⟩) hstep
  | access op =>
    cases ho
    exact inv_hostAccess h op
  | ctrl v => exact ctrlInstr_inv h ho

end Sys2Proof.Machine
end

section
/-! The statements of 40_dictionary.md. -/

namespace Sys2Proof

open Sys2Proof.Machine Sys2Proof.Safety

/-- Settles O52, by what each turn runs: the dictionary's update keeps the dictionary's part, and a code step that
fails a check has sent nothing. -/
theorem everyStepKeepsTheInvariant : Obligations.EveryStepKeepsTheInvariant :=
  fun s _ h hstep => (step_runs s).inv (inv_takeTurn h) hstep

/-- Settles O53, by what each turn runs; the second code of a window runs in a state that the first keeps in the
invariant. -/
theorem noStepEverStops : Obligations.NoStepEverStops :=
  fun s h => (step_runs s).completes (inv_takeTurn h)

/-- Settles O36, by the three facts about DICT_UPDATE: it completes, it does its three steps, it changes no more. -/
theorem dictUpdateFollowsItsThreeSteps : Obligations.DictUpdateFollowsItsThreeSteps := by
  intro c e s hinv hc hr
  obtain ⟨t, ht⟩ := dictUpdate_completes (dictSound_of_inv hinv) hc
  obtain ⟨b, hb, hupd⟩ := dictUpdate_updated hinv.size_low hr ht
  exact ⟨b, t, hb, ht, hupd, dictUpdate_frame ht⟩

/-- Settles O37, by the slots that the table lists. -/
theorem exactlyTheSlotsBelowSizeArePopulated : Obligations.ExactlyTheSlotsBelowSizeArePopulated := by
  intro s k hinv
  have hlow := hinv.size_low
  refine ⟨dictRead_literal s.dict k, fun hdyn hk => ?_, fun hk => ?_⟩
  · obtain ⟨e, he, hmem⟩ := dictFind_of_keys hinv.populated hdyn (by omega)
    exact ⟨e, (dictRead_dynamic s.dict k hdyn).trans he, hinv.long _ hmem⟩
  · rw [dictRead_dynamic s.dict k (by omega)]
    exact dictFind_none_of_keys hinv.populated (.inr (by omega))

end Sys2Proof
end

section
/-! What PARSE answers at each trailing count (R120 to R125). -/

namespace Sys2Proof.Machine

variable {w : Window} {tc : BitVec 3}

/-- R121. -/
theorem parse_of_count_zero (h : tc.toNat = 0) : parse w tc = .stop1 (unpackCode1 w) := by
  have htc : tc = 0#3 := BitVec.eq_of_toNat_eq h
  subst htc
  rfl

/-- R122. -/
theorem parse_of_count_one (h : tc.toNat = 1) : parse w tc = .stop2 (unpackCode1 w) (unpackCode2 w) := by
  have htc : tc = 1#3 := BitVec.eq_of_toNat_eq h
  subst htc
  rfl

/-- R123. -/
theorem parse_of_count_two (h : tc.toNat = 2) : parse w tc = .cont (unpackCode1 w) (unpackCode2 w) := by
  have htc : tc = 2#3 := BitVec.eq_of_toNat_eq h
  subst htc
  rfl

/-- R124. -/
theorem parse_of_count_three (h : tc.toNat = 3) : parse w tc = .cont (unpackCode1 w) (unpackCode2 w) := by
  have htc : tc = 3#3 := BitVec.eq_of_toNat_eq h
  subst htc
  rfl

/-- R125: such a count is none of the four that PARSE compares with. -/
theorem parse_of_four_le_count (h : 4 ≤ tc.toNat) : parse w tc = .framingError := by
  have differs : ∀ k : BitVec 3, k.toNat < 4 → tc ≠ k := by
    rintro k hk rfl
    omega
  unfold parse
  rw [if_neg (differs 0#3 (by decide)), if_neg (differs 1#3 (by decide)), if_neg (differs 2#3 (by decide)),
    if_neg (differs 3#3 (by decide))]

end Sys2Proof.Machine
end

section
/-! The statement of 41_unpacker.md. -/

namespace Sys2Proof

open Sys2Proof.Machine

/-- Settles O14, by what PARSE answers at each count; its codes are those of rules R81 and R82. -/
theorem parseOutcomeByTrailingCount : Obligations.ParseOutcomeByTrailingCount :=
  fun w _ => ⟨unpackCode1 w, unpackCode2 w, unpackCode1_toNat w, unpackCode2_toNat w, parse_of_count_zero,
    parse_of_count_one, parse_of_count_two, parse_of_count_three, parse_of_four_le_count⟩

end Sys2Proof
end

section
/-! The code step at each class of code, and the read steps at each count: what the statements of 42_decode_loop.md
about single instructions turn on. -/

namespace Sys2Proof.Machine

open Sys2Proof.Safety

/-! ### The error exit -/

/-- ERR_INFO of an error by arithmetic (R205). -/
theorem errInfoWord_eq (size : BitVec 13) (arg : BitVec 16) :
    errInfoWord size arg = BitVec.ofNat 32 (size.toNat * 65536 + arg.toNat) := by
  have hsize := size.isLt
  have harg := arg.isLt
  have hhigh : (size.setWidth 32 <<< 16).toNat = size.toNat * 2 ^ 16 := by
    rw [BitVec.toNat_shiftLeft, BitVec.toNat_setWidth, Nat.shiftLeft_eq]
    omega
  have hlow : (arg.setWidth 32).toNat = arg.toNat := by
    rw [BitVec.toNat_setWidth]
    omega
  apply BitVec.eq_of_toNat_eq
  rw [errInfoWord, toNat_or_eq_mul_add hhigh hlow harg, BitVec.toNat_ofNat]
  omega

/-- The error exit with an argument of fewer bits, in fields (R205). -/
theorem raiseError_eq {n : Nat} (hn : n ≤ 16) (e : EngineError) (arg : BitVec n) (s : State) :
    raiseError e (arg.setWidth 16) s = { s with
      st := .error, errCode := e.code, errInfo := BitVec.ofNat 32 (s.size.toNat * 65536 + arg.toNat) } := by
  rw [raiseError, errInfoWord_eq, BitVec.toNat_setWidth_of_le hn]

/-! ### The read steps -/

theorem countIn_zero (s : State) : countIn 0 s = s :=
  congrArg (fun x => { s with inCount := x }) (BitVec.add_zero s.inCount)

/-- The step READ0 with a count it goes on with (R142). -/
theorem read0Step_window {k : BitVec 3} {s : State} (hst : s.st = .read0) (hk : k.toNat ≤ 3) (h0 : k ≠ 0#3)
    (l0 l1 l2 : Byte) :
    read0Step k l0 l1 l2 s = .next (goto .read1 { countIn k s with W0 := fillLanes k l0 l1 l2 }) := by
  have hlegal : ¬ 4 ≤ k.toNat := by omega
  simp only [read0Step, hst, if_neg hlegal, if_neg h0]

/-- The step READ0 on an empty stream: it counts 0 bytes (R142). -/
theorem read0Step_empty {s : State} (hst : s.st = .read0) (l0 l1 l2 : Byte) :
    read0Step 0 l0 l1 l2 s = .next { s with st := .done } := by
  simp only [read0Step, hst, countIn_zero]
  rfl

/-- The step READ0 with a count that is no answer's (R142, R202). -/
theorem read0Step_bad {k : BitVec 3} {s : State} (hst : s.st = .read0) (hk : 4 ≤ k.toNat) (l0 l1 l2 : Byte) :
    read0Step k l0 l1 l2 s = .next (raiseError .invalidFraming (k.setWidth 16) s) := by
  simp only [read0Step, hst, if_pos hk]

/-- The step READ1 with a count that is no answer's (R143, R202). -/
theorem read1Step_bad {k : BitVec 3} {s : State} (hst : s.st = .read1) (hk : 4 ≤ k.toNat) (l0 l1 l2 : Byte) :
    read1Step k l0 l1 l2 s = .next (raiseError .invalidFraming (k.setWidth 16) s) := by
  simp only [read1Step, hst, if_pos hk]

/-- The step READ1 at the end of the stream: it counts 0 bytes (R121, R143). -/
theorem read1Step_empty {s : State} (hst : s.st = .read1) (l0 l1 l2 : Byte) :
    read1Step 0 l0 l1 l2 s = .next { s with st := .code1, W1 := ⟨0, 0, 0⟩, n := 0 } := by
  rw [read1Step_legal hst (by decide), countIn_zero]
  rfl

/-! ### The code classes -/

/-- A code that names no entry takes the error exit (R146, R150). -/
theorem codeStep_badc {c : Code} {s : State} (hst : s.st = .code1 ∨ (s.st = .code2 ∧ s.n ≠ 0#3))
    (hn : s.n.toNat ≤ 3) (hc : s.size.toNat ≤ c.toNat) :
    codeStep c s = .next (raiseError .invalidCode (c.setWidth 16) s) := by
  rw [codeStep_eq c hst hn, processCode, if_pos hc]
  rfl

theorem dictRead_lit (d : Dict) (c : BitVec 8) : dictRead d (c.setWidth 12 : Code).toNat = some [c] := by
  have hc : (c.setWidth 12 : Code).toNat = c.toNat := BitVec.toNat_setWidth_of_le (by decide)
  rw [hc, dictRead_literal d _ c.isLt, BitVec.ofNat_toNat, BitVec.setWidth_eq]

/-- A final entry is kept by the update (R104, R106). -/
theorem codePassed_keeps_final {s t : State} {e : Entry} {k : Nat} (h : CodePassed s t e)
    (hlt : s.size.toNat < 4096) (hk : k + 2 ≤ s.size.toNat) : dictRead t.dict k = dictRead s.dict k := by
  obtain ⟨b, -, hupd⟩ := h.updated
  exact hupd.others hlt k (by omega) (by omega)

/-- An entry that ends as it begins is left as it is when its last byte becomes its first (R28, R108). -/
theorem patched_eq_self {e : Entry} {b : Byte} (h : EndsAsItBegins e) (hb : e.head? = some b) :
    e.dropLast ++ [b] = e := by
  obtain ⟨x, hx, hlast⟩ := h
  obtain rfl : x = b := Option.some.inj (hx.symm.trans hb)
  exact List.dropLast_append_getLast? x hlast

/-- The provisional entry is patched to what it is when its own code is decoded (R108). -/
theorem codePassed_keeps_provisional {s t : State} {e : Entry} (hinv : Inv s) (h : CodePassed s t e)
    (hlt : s.size.toNat < 4096) (h257 : 257 ≤ s.size.toNat) (hr : dictRead s.dict (s.size.toNat - 1) = some e) :
    dictRead t.dict (s.size.toNat - 1) = some e := by
  obtain ⟨b, hb, hupd⟩ := h.updated
  rw [hupd.patched hlt h257 e hr, patched_eq_self (hinv.provisional e h257 hr) hb]

/-! ### The code that passes, and the window -/

theorem processCode_ended_codeCount {c : Code} {s t : State} (h : processCode c s = .ended t) :
    t.codeCount = s.codeCount := by
  obtain ⟨-, rfl⟩ | ⟨e, -, -, -, rfl⟩ | ⟨e, -, -, -, -, rfl⟩ := processCode_ended h
  · rfl
  · rfl
  · exact emit_codeCount _ s

/-- A code step whose code passes keeps the invariant, whatever its code: CODE_COUNT tells it from an error and from
a wait. -/
theorem codePassed_inv {c : Code} {s t : State} {e : Entry} (hinv : Inv s) (hstep : codeStep c s = .next t)
    (h : CodePassed s t e) : Inv t := by
  have hcount : t.codeCount ≠ s.codeCount := by
    rw [h.codeCount]
    bv_omega
  obtain ⟨hst, ⟨-, rfl⟩ | ⟨-, -, hp | ⟨u, hp, rfl⟩⟩⟩ := codeStep_next hstep
  · exact absurd rfl hcount
  · exact absurd (processCode_ended_codeCount hp) hcount
  · exact afterCode_inv hinv hst (processCode_passedSound hinv hp)

/-- A window whose first code's step goes on to CODE2 runs the second's from there (R151). -/
theorem windowStep_second {c1 : Code} {s t : State} (hst : s.st = .code1) (h1 : codeStep c1 s = .next t)
    (ht : t.st = .code2) (c2 : Code) : windowStep c1 c2 s = codeStep c2 t := by
  simp only [windowStep, hst, h1, if_pos ht]

end Sys2Proof.Machine
end

section
/-! The statements of 42_decode_loop.md about single instructions. -/

namespace Sys2Proof

open Sys2Proof.Machine Sys2Proof.Safety

/-- Settles O18: the slot of a literal holds its one byte, which fits and, once accepted, has not been sent before. -/
theorem litEmitsItsByte : Obligations.LitEmitsItsByte := by
  intro c s hinv hst ha
  have hc : (c.setWidth 12 : Code).toNat < s.size.toNat := by
    have hlow := hinv.size_low
    bv_omega
  obtain ⟨t, hstep, hpassed⟩ :=
    codeStep_passes hinv hst ha hc (dictRead_lit s.dict c) (updateFits_of_short (by simp))
  have hsent : s.sent = 0 := Nat.lt_one_iff.1 ha.1
  exact ⟨t, hstep, hpassed, by rw [hpassed.out, hsent, List.drop_zero]⟩

/-- Settles O19, by the code step that passes; the update leaves a final slot alone. -/
theorem dynfEmitsItsFinalEntry : Obligations.DynfEmitsItsFinalEntry := by
  intro c e s hinv hst ha _ hc hr hf
  obtain ⟨t, hstep, hpassed⟩ := codeStep_passes hinv hst ha (by omega) hr hf
  exact ⟨t, hstep, hpassed, fun hlt => (codePassed_keeps_final hpassed hlt hc).trans hr⟩

/-- Settles O20, by the code step that passes; the provisional entry ends in the byte that the patch writes. -/
theorem dynpEmitsTheProvisionalEntry : Obligations.DynpEmitsTheProvisionalEntry := by
  intro c e s hinv hst ha hc h257 hr hf
  obtain ⟨t, hstep, hpassed⟩ := codeStep_passes hinv hst ha (by omega) hr hf
  have hslot : c.toNat = s.size.toNat - 1 := by omega
  refine ⟨t, hstep, hpassed, fun hlt => ?_⟩
  rw [hslot] at hr ⊢
  exact codePassed_keeps_provisional hinv hpassed hlt h257 hr

/-- Settles O25: code1 passes and keeps the invariant, so code2's step is one from a state of the invariant. -/
theorem pack3RunsBothCodesInOrder : Obligations.Pack3RunsBothCodesInOrder := by
  intro c1 c2 e1 s hinv hst hn ha hc hr hf
  obtain ⟨t1, hstep, hpassed⟩ := codeStep_passes hinv (.inl hst) ha hc hr hf
  have ht1 : t1.st = .code2 := by rw [hpassed.st, if_pos hst, if_neg hn]
  have hwindow : exec (.pack3 c1 c2) s = codeStep c2 t1 := windowStep_second hst hstep ht1 c2
  refine ⟨t1, hpassed, by rw [hwindow, exec_classify], fun e2 hc2 hr2 hf2 ha2 => ?_⟩
  rw [hwindow]
  exact codeStep_passes (codePassed_inv hinv hstep hpassed) (.inr ht1) ha2 hc2 hr2 hf2

/-- Settles O15, by the step READ0 at each count. -/
theorem read0AtEveryCount : Obligations.Read0AtEveryCount := by
  intro l0 l1 l2 s hst
  refine ⟨read0Step_empty hst l0 l1 l2, read0Step_window (k := 1) hst (by decide) (by decide) l0 l1 l2,
    read0Step_window (k := 2) hst (by decide) (by decide) l0 l1 l2,
    read0Step_window (k := 3) hst (by decide) (by decide) l0 l1 l2, fun k hk => ?_⟩
  exact (read0Step_bad hst hk l0 l1 l2).trans (congrArg _ (raiseError_eq (by decide) .invalidFraming k s))

/-- Settles O16, by the step READ1 at each count. -/
theorem read1AtEveryCount : Obligations.Read1AtEveryCount := by
  intro l0 l1 l2 s hst
  refine ⟨read1Step_empty hst l0 l1 l2, read1Step_legal (k := 1) hst (by decide) l0 l1 l2,
    read1Step_legal (k := 2) hst (by decide) l0 l1 l2, read1Step_legal (k := 3) hst (by decide) l0 l1 l2,
    fun k hk => ?_⟩
  exact (read1Step_bad hst hk l0 l1 l2).trans (congrArg _ (raiseError_eq (by decide) .invalidFraming k s))

/-- Settles O21, by the check that ProcessCode makes first. -/
theorem badcRaisesInvalidCode : Obligations.BadcRaisesInvalidCode := by
  intro c s hn hst hc
  exact (codeStep_badc hst hn hc).trans (congrArg _ (raiseError_eq (by decide) .invalidCode c s))

end Sys2Proof
end

section
/-! The turns of the schedule: what the engine's, the stream's and the host's turn do in each controller state, and
along which rows of rule R140's table they move. -/

namespace Sys2Proof.Machine

open Sys2Proof.Safety

/-! ### The engine's turn in each controller state -/

/-- DONE, ERROR and IDLE are the states that are not busy (R32). -/
theorem not_busy_iff (x : Ctrl) : x.busy = false ↔ x = .idle ∨ x = .done ∨ x = .error := by
  cases x <;> decide

/-- An engine that is not busy waits (R152 to R154). -/
theorem engineFetch_of_not_busy {s : State} (h : s.st.busy = false) : engineFetch s = .wait s := by
  obtain hst | hst | hst := (not_busy_iff s.st).1 h <;> simp only [engineFetch, hst]

theorem takeTurn_of_nil {s : State} (h : s.turns = []) : takeTurn s = s := by
  rw [takeTurn, h, List.tail_nil, ← h]

theorem takeTurn_of_cons {s : State} {turn : Turn} {rest : List Turn} (h : s.turns = turn :: rest) :
    takeTurn s = { s with turns := rest } := by
  rw [takeTurn, h, List.tail_cons]

/-- On the engine's turn the step is the engine's (R141). -/
theorem step_engine {s : State} (h : s.turns = [] ∨ ∃ rest, s.turns = .engine :: rest) :
    step s = outcomeOf (engineFetch (takeTurn s)) := by
  rw [step_eq_outcomeOf, fetch_engine h]

theorem step_stream {s : State} {rest : List Turn} (h : s.turns = .stream :: rest) :
    step s = outcomeOf (streamFetch (takeTurn s)) := by
  rw [step_eq_outcomeOf, fetch_stream h]

/-- The host's explicit answer comes before its stream (R62; log entry 10). -/
theorem nextAnswer_explicit {s : State} {a : Answer} {more : List Answer} (h : s.answers = a :: more) :
    nextAnswer s = some (a, { s with answers := more }) := by
  simp only [nextAnswer, h]

theorem outcomeOf_engine_read0 {s u : State} {a : Answer} (hst : s.st = .read0) (ha : nextAnswer s = some (a, u)) :
    outcomeOf (engineFetch s) = read0Step a.k a.l0 a.l1 a.l2 u := by
  simp only [engineFetch, hst, ha, outcomeOf_read0]

theorem outcomeOf_engine_read1 {s u : State} {a : Answer} (hst : s.st = .read1) (ha : nextAnswer s = some (a, u)) :
    outcomeOf (engineFetch s) = read1Step a.k a.l0 a.l1 a.l2 u := by
  simp only [engineFetch, hst, ha, outcomeOf_read1]

/-- A read that no host answers waits (R62). -/
theorem engineFetch_unanswered {s : State} (hst : s.st = .read0 ∨ s.st = .read1) (ha : nextAnswer s = none) :
    engineFetch s = .wait s := by
  obtain hst | hst := hst <;> simp only [engineFetch, hst, ha]

/-! ### The stream's turn -/

/-- The code of a tail does not depend on the window's third byte (R81, R84). -/
theorem outcomeOf_stream_tail {s : State} (hst : s.st = .code1) (hn : s.n = 0#3) :
    outcomeOf (streamFetch s) = codeStep (unpackCode1 s.W0) s := by
  simp only [streamFetch, hst, if_pos hn]
  exact tailStep_eq hst hn

/-- At READ1 the delimiter's read is the read with its count, whose other lanes are 0 (R85, R89). -/
theorem outcomeOf_stream_read1 {s : State} (hst : s.st = .read1) :
    outcomeOf (streamFetch s) = outcomeOf (engineFetch s) := by
  cases ha : nextAnswer s with
  | none => simp only [streamFetch, engineFetch, hst, ha]
  | some p =>
    obtain ⟨⟨k, l0, l1, l2⟩, u⟩ := p
    rw [outcomeOf_engine_read1 hst ha]
    by_cases hk : k = 1#3
    · subst hk
      simp only [streamFetch, hst, ha]
      rfl
    · simp only [streamFetch, hst, ha, if_neg hk, outcomeOf_read1]

/-- But for a window with two codes, the stream's turn is the engine's (log entry 3). -/
theorem outcomeOf_stream_eq_engine {s : State} (h : s.st = .code1 → s.n = 0#3) :
    outcomeOf (streamFetch s) = outcomeOf (engineFetch s) := by
  cases hst : s.st with
  | code1 => rw [outcomeOf_stream_tail hst (h hst), outcomeOf_engine_code1 hst]
  | read1 => exact outcomeOf_stream_read1 hst
  | idle => simp only [streamFetch, hst]
  | read0 => simp only [streamFetch, hst]
  | code2 => simp only [streamFetch, hst]
  | done => simp only [streamFetch, hst]
  | error => simp only [streamFetch, hst]

/-! ### The host's turn -/

theorem width_of_accessOffset {a : BusAddr} {width off : Nat} (h : accessOffset a width = some off) : width = 4 := by
  unfold accessOffset at h
  split at h
  · cases h
  · split at h
    · rename_i hw
      exact hw.1
    · cases h

/-- What a host's turn does to the controller: a CTRL write with bit 1 set and a reset go to IDLE, one with bit 0 set
starts a run where the engine is not busy, everything else leaves it alone (R170 to R173, R230). -/
inductive HostMoved (s t : State) : Prop
  | kept (h : t.st = s.st)
  | reset (h : t.st = .idle) (hreset : ∃ rest, s.turns = .host .reset :: rest)
  | srst (h : t.st = .idle) (v : Word) (hctrl : CtrlWrite s v) (hv : v.getLsbD 1 = true)
  | start (h : t.st = .read0) (hbusy : s.st.busy = false) (v : Word) (hctrl : CtrlWrite s v)
    (hv : v.getLsbD 0 = true)

/-- What the command of a CTRL write does to the controller (R90, R170 to R173). -/
theorem ctrlInstr_st {v : Word} {s t : State} (h : exec (ctrlInstr v) s = .next t) :
    t.st = s.st ∨ (t.st = .idle ∧ v.getLsbD 1 = true) ∨
      (t.st = .read0 ∧ s.st.busy = false ∧ v.getLsbD 0 = true) := by
  rw [exec_ctrlInstr, Host.Outcome.next.injEq] at h
  subst h
  by_cases h1 : v.getLsbD 1 = true
  · exact .inr (.inl ⟨by rw [if_pos h1]; rfl, h1⟩)
  by_cases h0 : v.getLsbD 0 = true
  · rw [if_neg h1, if_pos h0]
    cases hbusy : s.st.busy with
    | true => exact .inl (by rw [startCommand_of_busy hbusy])
    | false => exact .inr (.inr ⟨by rw [startCommand, hbusy]; rfl, rfl, h0⟩)
  · exact .inl (by rw [if_neg h1, if_neg h0])

theorem step_hostMoved {s t : State} {op : HostOp} {rest : List Turn} (hturn : s.turns = .host op :: rest)
    (h : step s = .next t) : HostMoved s t := by
  have haccess (hfetch : hostFetch op (takeTurn s) = .access op (takeTurn s)) : hostAccess op (takeTurn s) = t := by
    rw [step_eq_outcomeOf, fetch_host hturn, hfetch] at h
    exact Host.Outcome.next.inj h
  cases op with
  | read a width =>
    obtain ⟨v, d, hread⟩ := hostRead_eq a width (takeTurn s)
    refine .kept ?_
    rw [← haccess rfl, hostAccess, hread]
    rfl
  | write a width v =>
    rw [step_hostWrite hturn] at h
    split at h
    · rename_i hoff
      obtain rfl := width_of_accessOffset hoff
      have hctrl : CtrlWrite s v := ⟨a, rest, hoff, hturn⟩
      obtain hkept | ⟨hst, hv⟩ | ⟨hst, hbusy, hv⟩ := ctrlInstr_st h
      · exact .kept hkept
      · exact .srst hst v hctrl hv
      · exact .start hst hbusy v hctrl hv
    · cases h
      exact .kept rfl
  | reset => exact .reset (by rw [← haccess rfl]; rfl) ⟨rest, hturn⟩
  | offer x => exact .kept (by rw [← haccess rfl]; rfl)
  | accept x => exact .kept (by rw [← haccess rfl]; rfl)

/-! ### The rows of rule R140's table -/

/-- The move keeps the controller's state, resets it, or is a row of the table of rule R140. -/
def Allowed (s t : State) : Prop := t.st = s.st ∨ t.st = .idle ∨ (s.st, t.st) ∈ transitions

theorem read0Step_allowed {k : BitVec 3} {l0 l1 l2 : Byte} {s t : State} (h : read0Step k l0 l1 l2 s = .next t) :
    Allowed s t := by
  obtain ⟨hst, hcase⟩ := read0Step_next h
  obtain ⟨-, rfl⟩ | ⟨-, rfl⟩ | ⟨-, -, rfl⟩ := hcase <;> simp [Allowed, hst, transitions]

theorem read1Step_allowed {k : BitVec 3} {l0 l1 l2 : Byte} {s t : State} (h : read1Step k l0 l1 l2 s = .next t) :
    Allowed s t := by
  obtain ⟨hst, hcase⟩ := read1Step_next h
  obtain ⟨-, rfl⟩ | ⟨-, rfl⟩ := hcase <;> simp [Allowed, hst, transitions]

/-- Where ProcessCode stops short, the step takes the error exit or stays where it is (R63, R146). -/
theorem processCode_ended_st {c : Code} {s t : State} (h : processCode c s = .ended t) :
    t.st = .error ∨ t.st = s.st := by
  obtain ⟨-, rfl⟩ | ⟨e, -, -, -, rfl⟩ | ⟨e, -, -, -, -, rfl⟩ := processCode_ended h
  · exact .inl rfl
  · exact .inl rfl
  · exact .inr (emit_st _ s)

theorem allowed_error {s t : State} (hst : InCodeStep s) (ht : t.st = .error) : Allowed s t := by
  obtain hst | hst := hst <;> simp [Allowed, hst, ht, transitions]

theorem afterCode_allowed {s : State} (hst : InCodeStep s) (u : State) : Allowed s (afterCode s u) := by
  rw [Allowed, afterCode_st]
  obtain hst | hst := hst
  · by_cases hn : s.n = 0#3 <;> simp [hst, hn, transitions]
  · by_cases hn : s.n = 1#3 <;> simp [hst, hn, transitions]

theorem codeStep_allowed {c : Code} {s t : State} (h : codeStep c s = .next t) : Allowed s t := by
  obtain ⟨hst, ⟨-, rfl⟩ | ⟨-, -, hp | ⟨u, -, rfl⟩⟩⟩ := codeStep_next h
  · exact allowed_error hst rfl
  · exact (processCode_ended_st hp).elim (allowed_error hst) .inl
  · exact afterCode_allowed hst u

theorem wait_allowed {s t : State} (h : outcomeOf (.wait s) = .next t) : Allowed s t := by
  cases h
  exact .inl rfl

theorem engineFetch_allowed {s t : State} (h : outcomeOf (engineFetch s) = .next t) : Allowed s t := by
  have hread {a : Answer} {u : State} (ha : nextAnswer s = some (a, u)) (hu : Allowed u t) : Allowed s t := by
    rwa [Allowed, nextAnswer_st ha] at hu
  have hquiet (hbusy : s.st.busy = false) : Allowed s t := wait_allowed (engineFetch_of_not_busy hbusy ▸ h)
  cases hst : s.st with
  | idle => exact hquiet (by rw [hst]; rfl)
  | read0 =>
    cases ha : nextAnswer s with
    | none => exact wait_allowed (engineFetch_unanswered (.inl hst) ha ▸ h)
    | some p => exact hread ha (read0Step_allowed (outcomeOf_engine_read0 hst ha ▸ h))
  | read1 =>
    cases ha : nextAnswer s with
    | none => exact wait_allowed (engineFetch_unanswered (.inr hst) ha ▸ h)
    | some p => exact hread ha (read1Step_allowed (outcomeOf_engine_read1 hst ha ▸ h))
  | code1 => exact codeStep_allowed (outcomeOf_engine_code1 hst ▸ h)
  | code2 => exact codeStep_allowed (outcomeOf_engine_code2 hst ▸ h)
  | done => exact hquiet (by rw [hst]; rfl)
  | error => exact hquiet (by rw [hst]; rfl)

/-- Only an engine that is not busy is started, which is a row of the table (R140, R170). -/
theorem start_mem_transitions {x : Ctrl} (h : x.busy = false) : (x, Ctrl.read0) ∈ transitions := by
  revert h
  cases x <;> decide

theorem HostMoved.allowed {s t : State} (h : HostMoved s t) : Allowed s t := by
  cases h with
  | kept h => exact .inl h
  | reset h => exact .inr (.inl h)
  | srst h => exact .inr (.inl h)
  | start h hbusy =>
    rw [Allowed, h]
    exact .inr (.inr (start_mem_transitions hbusy))

/-! ### The quiescent engine -/

/-- Where the engine is not busy, its turn and the stream's do nothing (R152 to R154, R215). -/
theorem step_of_not_busy {s : State} (h : s.st.busy = false) (hturn : ∀ op rest, s.turns ≠ .host op :: rest) :
    step s = .next (takeTurn s) := by
  have hwait : engineFetch (takeTurn s) = .wait (takeTurn s) := engineFetch_of_not_busy h
  cases hs : s.turns with
  | nil => rw [step_engine (.inl hs), hwait, outcomeOf]
  | cons turn rest =>
    cases turn with
    | engine => rw [step_engine (.inr ⟨rest, hs⟩), hwait, outcomeOf]
    | stream =>
      have hcode1 : (takeTurn s).st = .code1 → (takeTurn s).n = 0#3 := fun hst => by
        have hcode : s.st = .code1 := hst
        rw [hcode] at h
        cases h
      rw [step_stream hs, outcomeOf_stream_eq_engine hcode1, hwait, outcomeOf]
    | host op => exact absurd hs (hturn op rest)

end Sys2Proof.Machine
end

section
/-! The statements of 42_decode_loop.md about the turns and the table of rule R140. -/

namespace Sys2Proof

open Sys2Proof.Machine Sys2Proof.Safety

/-- Settles O33: only a host's turn moves an engine that is not busy. -/
theorem endedRunIsLeftOnlyByACommand : Obligations.EndedRunIsLeftOnlyByACommand := by
  intro s t hended hstep hmoved
  have hbusy : s.st.busy = false := (not_busy_iff s.st).2 (.inr hended)
  by_cases hhost : ∃ op rest, s.turns = .host op :: rest
  · obtain ⟨op, rest, hturn⟩ := hhost
    cases step_hostMoved hturn hstep with
    | kept h => exact absurd h hmoved
    | reset _ hreset => exact .inr hreset
    | srst _ v hctrl hv => exact .inl ⟨v, hctrl, .inr hv⟩
    | start _ _ v hctrl hv => exact .inl ⟨v, hctrl, .inl hv⟩
  · rw [step_of_not_busy hbusy fun op rest h => hhost ⟨op, rest, h⟩] at hstep
    cases hstep
    exact absurd rfl hmoved

/-- Settles O35, by the move of each turn. -/
theorem transitionsAreTheTableOfRuleR140 : Obligations.TransitionsAreTheTableOfRuleR140 := by
  intro s t hstream hstep
  cases hturn : s.turns with
  | nil => exact engineFetch_allowed (s := takeTurn s) (step_engine (.inl hturn) ▸ hstep)
  | cons turn rest =>
    cases turn with
    | engine => exact engineFetch_allowed (s := takeTurn s) (step_engine (.inr ⟨rest, hturn⟩) ▸ hstep)
    | stream => exact absurd hturn (hstream rest)
    | host op => exact (step_hostMoved hturn hstep).allowed

/-- Settles O34: an engine that is not busy waits. -/
theorem quiescentEngineTakesNoStep : Obligations.QuiescentEngineTakesNoStep := by
  intro s rest hst
  have hbusy : s.st.busy = false := (not_busy_iff s.st).2 hst
  refine ⟨fun h => ?_, fun h => ?_⟩
  · rw [step_of_not_busy hbusy (by simp [h]), takeTurn_of_nil h]
  · obtain h | h := h <;> rw [step_of_not_busy hbusy (by simp [h]), takeTurn_of_cons h]

/-- Settles O46, by the word that the engine's turn fetches in each state. -/
theorem stepRunsTheDecodedInstruction : Obligations.StepRunsTheDecodedInstruction := by
  refine ⟨fun s t f bs i => step_word, fun s rest hturn => ?_⟩
  have htaken : takeTurn s = { s with turns := rest } := by
    obtain ⟨h, rfl⟩ | h := hturn
    · rw [takeTurn, h]
      rfl
    · exact takeTurn_of_cons h
  have hstep : step s = outcomeOf (engineFetch { s with turns := rest }) := by
    rw [← htaken]
    exact step_engine (hturn.imp And.left fun h => ⟨rest, h⟩)
  refine ⟨fun hst => ?_, fun hst => ?_, fun a more ha => ⟨fun hst => ?_, fun hst => ?_⟩⟩
  · rw [hstep, exec_classify]
    exact outcomeOf_engine_code1 (s := { s with turns := rest }) hst
  · rw [hstep, exec_classify]
    exact outcomeOf_engine_code2 (s := { s with turns := rest }) hst
  · rw [hstep, exec_read0Instr]
    exact outcomeOf_engine_read0 (s := { s with turns := rest }) hst (nextAnswer_explicit ha)
  · rw [hstep, exec_read1Instr]
    exact outcomeOf_engine_read1 (s := { s with turns := rest }) hst (nextAnswer_explicit ha)

end Sys2Proof
end

section
/-! A window on the stream's turn as two turns of the engine: the code step does not look at the schedule. And the
states in which a word given from outside is laid. -/

namespace Sys2Proof.Machine

open Sys2Proof.Safety

/-! ### The code step and the schedule -/

/-- The state with another schedule. -/
def withTurns (turns : List Turn) (s : State) : State := { s with turns := turns }

@[simp] theorem withTurns_size (turns : List Turn) (s : State) : (withTurns turns s).size = s.size := rfl
@[simp] theorem withTurns_dict (turns : List Turn) (s : State) : (withTurns turns s).dict = s.dict := rfl
@[simp] theorem withTurns_sent (turns : List Turn) (s : State) : (withTurns turns s).sent = s.sent := rfl

theorem emit_withTurns (e : Entry) (turns : List Turn) (s : State) :
    emit e (withTurns turns s) = withTurns turns (emit e s) := by
  simp only [emit_eq, withTurns]

theorem patchStep_withTurns {b : Byte} {s t : State} (h : patchStep b s = .ok t) (turns : List Turn) :
    patchStep b (withTurns turns s) = .ok (withTurns turns t) := by
  obtain ⟨hlit, rfl⟩ | ⟨hdyn, p, hp, hne, rfl⟩ := patchStep_ok h
  · rw [patchStep, withTurns_size, if_pos hlit]
  · obtain ⟨x, rest, rfl⟩ := List.exists_cons_of_ne_nil hne
    simp only [patchStep, withTurns_size, withTurns_dict, if_neg (Nat.not_lt.2 hdyn), hp]
    rfl

theorem appendStep_withTurns {e : Entry} {s t : State} (h : appendStep e s = .ok t) (turns : List Turn) :
    appendStep e (withTurns turns s) = .ok (withTurns turns t) := by
  obtain ⟨hlt, rfl⟩ := appendStep_ok h
  rw [appendStep, withTurns_size, if_neg (by omega)]
  rfl

theorem fullStep_withTurns (turns : List Turn) (s : State) :
    fullStep (withTurns turns s) = withTurns turns (fullStep s) := by
  simp only [fullStep_eq, withTurns]

theorem dictUpdate_withTurns {c : Code} {s t : State} (h : dictUpdate c s = .ok t) (turns : List Turn) :
    dictUpdate c (withTurns turns s) = .ok (withTurns turns t) := by
  obtain ⟨b, rest, u, hc, hr, hu, ha⟩ := dictUpdate_ok h
  simp only [dictUpdate, withTurns_size, withTurns_dict, if_neg (Nat.not_le.2 hc), hr, patchStep_withTurns hu,
    fullStep_withTurns]
  exact appendStep_withTurns ha turns

theorem processCode_withTurns {c : Code} {s t : State} (h : processCode c s = .passed t) (turns : List Turn) :
    processCode c (withTurns turns s) = .passed (withTurns turns t) := by
  obtain ⟨e, u, hc, hr, hf, hall, hu, rfl⟩ := processCode_passed h
  have hfits : entryFits e.length = true := (entryFits_iff e).2 hf
  have hend (v : State) : endTransfer (withTurns turns v) = withTurns turns (endTransfer v) := rfl
  simp only [processCode, withTurns_size, withTurns_dict, withTurns_sent, if_neg (Nat.not_le.2 hc), hr, if_pos hfits,
    emit_withTurns, afterEmission, if_pos hall, finishCode]
  rw [hend, dictUpdate_withTurns hu]
  rfl

/-- A step CODE1 that goes on to CODE2 has passed its code (R144). -/
theorem passed_of_second {c : Code} {s t : State} (hst : s.st = .code1) (h : codeStep c s = .next t)
    (ht : t.st = .code2) : s.n.toNat ≤ 3 ∧ ∃ u, processCode c s = .passed u ∧ t = afterCode s u := by
  obtain ⟨-, ⟨-, rfl⟩ | ⟨hn, -, hp | hp⟩⟩ := codeStep_next h
  · cases ht
  · obtain herr | hsame := processCode_ended_st hp
    · simp [herr] at ht
    · simp [hsame, hst] at ht
  · exact ⟨hn, hp⟩

/-- A step CODE1 that goes on to CODE2 does the same under another schedule. -/
theorem codeStep_withTurns {c : Code} {s t : State} (hst : s.st = .code1) (h : codeStep c s = .next t)
    (ht : t.st = .code2) (turns : List Turn) : codeStep c (withTurns turns s) = .next (withTurns turns t) := by
  obtain ⟨hn, u, hp, rfl⟩ := passed_of_second hst h ht
  rw [codeStep_eq (s := withTurns turns s) c (.inl hst) hn, processCode_withTurns hp]
  by_cases h0 : s.n = 0#3 <;> simp [CodeOutcome.andThen, afterCode, hst, h0, goto, withTurns]

theorem processCode_passed_W0 {c : Code} {s t : State} (h : processCode c s = .passed t) : t.W0 = s.W0 := by
  obtain ⟨e, u, -, -, -, -, hu, rfl⟩ := processCode_passed h
  rw [dictUpdate_frame hu]
  exact emit_W0 _ s

/-- The step CODE2 finds its code in the window that CODE1 found its own in (R144, R145). -/
theorem second_W0 {c : Code} {s t : State} (hst : s.st = .code1) (h : codeStep c s = .next t)
    (ht : t.st = .code2) : t.W0 = s.W0 := by
  obtain ⟨-, u, hp, rfl⟩ := passed_of_second hst h ht
  rw [afterCode_W0 (.inl hst), if_neg (by simp [hst]), processCode_passed_W0 hp]

/-! ### The window's turn -/

theorem step_engine_withTurns (rest : List Turn) (s : State) :
    step (withTurns (.engine :: rest) s) = outcomeOf (engineFetch (withTurns rest s)) :=
  step_engine (s := withTurns (.engine :: rest) s) (.inr ⟨rest, rfl⟩)

theorem step_stream_withTurns (rest : List Turn) (s : State) :
    step (withTurns (.stream :: rest) s) = outcomeOf (streamFetch (withTurns rest s)) :=
  step_stream (s := withTurns (.stream :: rest) s) rfl

/-- What the two code steps of a window do on one stream turn, two turns of the engine do (R151; log entry 3). -/
theorem window_is_engine_steps {s t : State} {rest : List Turn} (hst : s.st = .code1) (hn : s.n ≠ 0#3)
    (h : outcomeOf (streamFetch (withTurns rest s)) = .next t) :
    outcomeOf (engineFetch (withTurns rest s)) = .next t ∨
      ∃ u, step (withTurns (.engine :: .engine :: rest) s) = .next u ∧ step u = .next t := by
  rw [outcomeOf_stream_window (s := withTurns rest s) hst hn] at h
  obtain ⟨-, u, h1, ⟨-, rfl⟩ | ⟨hu, h2⟩⟩ := windowStep_next h
  · exact .inl ((outcomeOf_engine_code1 (s := withTurns rest s) hst).trans h1)
  · have hsame (turns : List Turn) : codeStep (unpackCode1 s.W0) (withTurns turns s) = .next (withTurns turns u) :=
      codeStep_withTurns (s := withTurns rest s) hst h1 hu turns
    have hrest : u = withTurns rest u := Host.Outcome.next.inj (h1.symm.trans (hsame rest))
    refine .inr ⟨withTurns (.engine :: rest) u, ?_, ?_⟩
    · rw [step_engine_withTurns]
      exact (outcomeOf_engine_code1 (s := withTurns (.engine :: rest) s) hst).trans (hsame _)
    · rw [step_engine_withTurns, ← hrest, outcomeOf_engine_code2 hu, second_W0 (s := withTurns rest s) hst h1 hu]
      exact h2

/-! ### Placed words -/

/-- The step of `placed` fetches the word, and the host's side of the state it runs on is that of `s`. -/
structure FetchesFor (s placed : State) (f : Format) (bs : List Byte) (t : State) : Prop where
  fetch : fetch placed = .word f bs t
  turns : t.turns = s.turns
  answers : t.answers = s.answers
  stream : t.stream = s.stream
  out : t.out = s.out
  readLog : t.readLog = s.readLog
  room : t.room = s.room

/-- The count byte of a word gives the bytes of the answer that it is laid as. -/
theorem bytes_of_countByte {k : Byte} (h : k.toNat < 8) (l0 l1 l2 : Byte) :
    Answer.bytes ⟨k.setWidth 3, l0, l1, l2⟩ = [k, l0, l1, l2] := by
  have hk : (k.setWidth 3).setWidth 8 = k := by bv_omega
  rw [Answer.bytes, encodeCount, hk]

theorem countByte_of_decode {col : BitVec 3 → Byte → Byte → Byte → Instr} {k l0 l1 l2 : Byte} {i : Instr}
    (h : decodeCount col k l0 l1 l2 = .ok i) : k.toNat < 8 := by
  unfold decodeCount at h
  split at h
  · cases h
  · omega

theorem highByte_of_decode {size : BitVec 13} {lo hi : Byte} {i : Instr} (h : decodeCode12 size lo hi = .ok i) :
    hi.toNat < 16 := by
  unfold decodeCode12 at h
  split at h
  · cases h
  · omega

/-- A word that decodes, once laid, is what the next step fetches (log entry 5). -/
theorem placeWord_fetches {f : Format} {bs : List Byte} {i : Instr} (h : decode f bs = .ok i) (s : State) :
    ∃ t, FetchesFor s (placeWord s f bs) f bs t := by
  unfold decode at h
  split at h
  · rename_i size lo hi
    have hcode : encodeCode12 (unpackCode1 (packPair ((hi ++ lo).setWidth 12) 0)) = [lo, hi] := by
      rw [(unpack_pack _ _).1, encodeCode12_of_bytes (highByte_of_decode h)]
    exact ⟨takeTurn (placeWord s (.code12 size) [lo, hi]), congrArg (Fetched.word _ · _) hcode,
      rfl, rfl, rfl, rfl, rfl, rfl⟩
  · have hbytes := bytes_of_countByte (countByte_of_decode h)
    exact ⟨{ s with st := .read0, sent := 0 }, congrArg (Fetched.word _ · _) (hbytes _ _ _),
      rfl, rfl, rfl, rfl, rfl, rfl⟩
  · have hbytes := bytes_of_countByte (countByte_of_decode h)
    exact ⟨{ s with st := .read1, sent := 0 }, congrArg (Fetched.word _ · _) (hbytes _ _ _),
      rfl, rfl, rfl, rfl, rfl, rfl⟩
  · exact ⟨_, rfl, rfl, rfl, rfl, rfl, rfl, rfl⟩
  · exact ⟨_, rfl, rfl, rfl, rfl, rfl, rfl, rfl⟩
  · exact ⟨{ s with st := .read1, sent := 0 }, rfl, rfl, rfl, rfl, rfl, rfl, rfl⟩
  · exact ⟨s, congrArg (Fetched.word _ · _) (lanesOfWord_wordOfLanes _ _ _ _), rfl, rfl, rfl, rfl, rfl, rfl⟩
  · cases h

/-- A table word that decodes has a format and bytes, which are laid (log entry 4). -/
theorem decodeTableWord_some {nbits w : Nat} {i : Instr} (h : decodeTableWord nbits w = some i) :
    ∃ f bs, tableWord nbits w = some (f, bs) ∧ decode f bs = .ok i := by
  unfold decodeTableWord at h
  split at h
  · cases h
  · rename_i f bs hword
    split at h
    · rename_i j hj
      cases h
      exact ⟨f, bs, hword, hj⟩
    · cases h

end Sys2Proof.Machine
end

section
/-! The statements of 42_decode_loop.md about stream turns and placed words. -/

namespace Sys2Proof

open Sys2Proof.Machine Sys2Proof.Safety

/-- Settles O30: only a window with two codes takes two turns of the engine. -/
theorem streamTurnIsEngineSteps : Obligations.StreamTurnIsEngineSteps := by
  intro s t rest hstep
  have hstream : outcomeOf (streamFetch (withTurns rest s)) = .next t := (step_stream_withTurns rest s).symm.trans hstep
  have hengine : step { s with turns := .engine :: rest } = outcomeOf (engineFetch (withTurns rest s)) :=
    step_engine_withTurns rest s
  rw [hengine]
  by_cases hwindow : s.st = .code1 ∧ s.n ≠ 0#3
  · exact window_is_engine_steps hwindow.1 hwindow.2 hstream
  · have htail : s.st = .code1 → s.n = 0#3 := by simpa using hwindow
    exact .inl ((outcomeOf_stream_eq_engine (s := withTurns rest s) htail).symm.trans hstream)

/-- Settles O47, by what each format's placed state fetches. -/
theorem placedWordRunsNext : Obligations.PlacedWordRunsNext := by
  intro s nbits w i h
  obtain ⟨f, bs, hword, hdecode⟩ := decodeTableWord_some h
  obtain ⟨t, ht⟩ := placeWord_fetches hdecode s
  refine ⟨t, ?_, ht.turns, ht.answers, ht.stream, ht.out, ht.readLog, ht.room⟩
  rw [State.withFetchWord, hword]
  exact step_word ht.fetch hdecode

end Sys2Proof
end

section
/-! The bound on a run of a well-behaved host (R156): how many reads and codes each of its states has before it. -/

namespace Sys2Proof.Machine

open Sys2Proof.Safety

/-! ### The reads still to be made -/

/-- How many read steps at most a state of a run has before it, with so many bytes of the stream undelivered: one for
each three bytes, one that finds the stream at its end, and at READ0 the first. -/
def readsDue (s : State) (undelivered : Nat) : Nat :=
  match s.st with
  | .read0 => 2 + (undelivered + 2) / 3
  | .read1 => 1 + (undelivered + 2) / 3
  | .code1 => if s.n = 0#3 ∨ s.n = 1#3 then 0 else 1 + (undelivered + 2) / 3
  | .code2 => if s.n = 1#3 then 0 else 1 + (undelivered + 2) / 3
  | .idle => 0
  | .done => 0
  | .error => 0

/-- A step has begun no new run, and leaves at most so many reads to be made. -/
structure LeavesReads (t : State) (undelivered reads : Nat) : Prop where
  begun : t.st ≠ .idle
  due : readsDue t undelivered ≤ reads

/-- The error exit and DONE leave none. -/
theorem leavesReads_of_ended {t : State} (h : Ended t) (undelivered reads : Nat) : LeavesReads t undelivered reads := by
  obtain h | h := h <;> exact ⟨by simp [h], by simp [readsDue, h]⟩

theorem read0_leavesReads {s t : State} {bytes : List Byte} (hhost : WellBehaved s bytes) (hst : s.st = .read0)
    (hstep : step s = .next t) : LeavesReads t (bytes.drop 3).length (1 + (bytes.length + 2) / 3) := by
  rw [step_read0 hst hhost] at hstep
  obtain ⟨-, ⟨-, rfl⟩ | ⟨-, rfl⟩ | ⟨-, -, rfl⟩⟩ := read0Step_next hstep
  · exact leavesReads_of_ended (.inr rfl) _ _
  · exact leavesReads_of_ended (.inl rfl) _ _
  · refine ⟨by simp, ?_⟩
    simp only [readsDue, goto_st, List.length_drop]
    omega

/-- A count of two or three leaves a window's codes and then a read; two is the end of the stream (R233). -/
theorem read1_leavesReads {s t : State} {bytes : List Byte} (hhost : WellBehaved s bytes) (hst : s.st = .read1)
    (hstep : step s = .next t) : LeavesReads t (bytes.drop 3).length ((bytes.length + 2) / 3) := by
  rw [step_read1 hst hhost] at hstep
  obtain ⟨-, ⟨-, rfl⟩ | ⟨-, rfl⟩⟩ := read1Step_next hstep
  · exact leavesReads_of_ended (.inr rfl) _ _
  · have hk := wellBehavedAnswer_k bytes
    refine ⟨by simp, ?_⟩
    simp only [readsDue, goto_st, goto_n, List.length_drop]
    split_ifs with h
    · exact Nat.zero_le _
    · bv_omega

theorem afterCode_leavesReads {s u : State} (hst : InCodeStep s) (hn : u.n = s.n) (undelivered : Nat) :
    LeavesReads (afterCode s u) undelivered (readsDue s undelivered) := by
  obtain h | h := hst
  · by_cases h0 : s.n = 0#3
    · exact leavesReads_of_ended (.inl (by simp [afterCode_st, h, h0])) _ _
    · exact ⟨by simp [afterCode_st, h, h0], by simp [readsDue, afterCode, h, h0, hn]⟩
  · by_cases h1 : s.n = 1#3
    · exact leavesReads_of_ended (.inl (by simp [afterCode_st, h, h1])) _ _
    · exact ⟨by simp [afterCode_st, h, h1], by simp [readsDue, afterCode, h, h1]⟩

theorem codeStep_leavesReads {c : Code} {s t : State} (hst : InCodeStep s) (hroom : s.room = none)
    (hstep : codeStep c s = .next t) (undelivered : Nat) :
    LeavesReads t undelivered (readsDue s undelivered) := by
  obtain herr | ⟨u, hu, rfl⟩ := codeStep_unbounded hroom hstep
  · exact leavesReads_of_ended (.inr herr) _ _
  · exact afterCode_leavesReads hst (processCode_counted hu).n undelivered

/-! ### The codes still to be decoded -/

/-- A stream of `len` bytes holds at most two codes for each three bytes (R86). -/
theorem codesOfLength_le (len : Nat) : codesOfLength len ≤ 2 * ((len + 2) / 3) := by
  unfold codesOfLength
  split_ifs <;> omega

theorem codesDue_pos {s : State} (h : InCodeStep s) (undelivered : Nat) : 1 ≤ codesDue s undelivered := by
  obtain h | h := h <;> simp only [codesDue, h] <;> split_ifs <;> omega

/-- Between two states of an account, or up to an error exit, the codes due go down by the codes decoded. -/
theorem codesDue_le_of_account {len c k : Nat} {s t : State} {bytes rest : List Byte} (h : Account len c s bytes)
    (ht : t.st = .error ∨ Account len (c + k) t rest) (hk : k ≤ codesDue s bytes.length) :
    codesDue t rest.length + k ≤ codesDue s bytes.length := by
  obtain herr | ht := ht
  · simpa only [codesDue, herr, Nat.zero_add] using hk
  · have hs := h.due
    have ht := ht.due
    omega

/-! ### The run -/

/-- A state on the way of a run over a stream of `len` bytes, after `c` code steps: it meets the invariant, the run has
begun, and its account agrees unless it has taken the error exit. -/
structure OnRun (len c : Nat) (s : State) (bytes : List Byte) : Prop where
  inv : Inv s
  begun : s.st ≠ .idle
  account : s.st = .error ∨ Account len c s bytes

/-- A read step of a run is one read fewer to be made. -/
theorem OnRun.read_step {len c : Nat} {s : State} {bytes : List Byte} (h : OnRun len c s bytes)
    (hst : s.st = .read0 ∨ s.st = .read1) :
    ∃ t rest, step s = .next t ∧ OnRun len c t rest ∧
      readsDue t rest.length + 1 ≤ readsDue s bytes.length ∧ codesDue t rest.length ≤ codesDue s bytes.length := by
  have hacc : Account len c s bytes := h.account.resolve_left (by obtain h | h := hst <;> simp [h])
  obtain ⟨t, hstep⟩ := noStepEverStops s h.inv
  obtain ⟨reads, hdue, hleft, hrest⟩ : ∃ reads, readsDue s bytes.length = reads + 1 ∧
      LeavesReads t (bytes.drop 3).length reads ∧ (t.st = .error ∨ Account len c t (bytes.drop 3)) := by
    obtain hst | hst := hst
    · refine ⟨1 + (bytes.length + 2) / 3, ?_, read0_leavesReads hacc.host hst hstep, read0_account hacc hst hstep⟩
      simp only [readsDue, hst]
      omega
    · refine ⟨(bytes.length + 2) / 3, ?_, read1_leavesReads hacc.host hst hstep, read1_account hacc hst hstep⟩
      simp only [readsDue, hst]
      omega
  have hreads : readsDue t (bytes.drop 3).length + 1 ≤ readsDue s bytes.length := by
    rw [hdue]
    exact Nat.succ_le_succ hleft.due
  exact ⟨t, _, hstep, ⟨everyStepKeepsTheInvariant s t h.inv hstep, hleft.begun, hrest⟩, hreads,
    codesDue_le_of_account (k := 0) hacc hrest (Nat.zero_le _)⟩

/-- A code step of a run is one code fewer to be decoded, and no read more to be made. -/
theorem OnRun.code_step {len c : Nat} {s : State} {bytes : List Byte} (h : OnRun len c s bytes)
    (hst : InCodeStep s) :
    ∃ t, step s = .next t ∧ OnRun len (c + 1) t bytes ∧
      readsDue t bytes.length ≤ readsDue s bytes.length ∧ codesDue t bytes.length + 1 ≤ codesDue s bytes.length := by
  have hacc : Account len c s bytes := h.account.resolve_left (by obtain h | h := hst <;> simp [h])
  obtain ⟨t, hstep⟩ := noStepEverStops s h.inv
  obtain ⟨code, hcode⟩ := step_code hst hacc.host.turns
  obtain ⟨hbegun, hreads⟩ := codeStep_leavesReads hst hacc.host.sink (hcode.symm.trans hstep) bytes.length
  have hrest := code_account hacc hst hstep
  exact ⟨t, hstep, ⟨everyStepKeepsTheInvariant s t h.inv hstep, hbegun, hrest⟩, hreads,
    codesDue_le_of_account hacc hrest (codesDue_pos hst _)⟩

/-- A run that has begun is in a read step or a code step until it has ended (R140). -/
theorem read_of_not_ended {s : State} (hbegun : s.st ≠ .idle) (hended : ¬ Ended s) (hcode : ¬ InCodeStep s) :
    s.st = .read0 ∨ s.st = .read1 := by
  cases hst : s.st <;> simp_all [Ended, InCodeStep]

/-- A run ends within what is due: each step lowers the reads and the codes due together. -/
theorem OnRun.ends {len c : Nat} {s : State} {bytes : List Byte} (h : OnRun len c s bytes) :
    ∃ r k t, RunsTo s r k t ∧ Ended t ∧ r ≤ readsDue s bytes.length ∧ k ≤ codesDue s bytes.length := by
  induction hdue : readsDue s bytes.length + codesDue s bytes.length using Nat.strong_induction_on
    generalizing c s bytes with
  | _ due ih =>
    subst hdue
    by_cases hended : Ended s
    · exact ⟨0, 0, s, .refl s, hended, Nat.zero_le _, Nat.zero_le _⟩
    by_cases hcode : InCodeStep s
    · obtain ⟨t, hstep, ht, hreads, hcodes⟩ := h.code_step hcode
      obtain ⟨r, k, u, hrun, hu, hr, hk⟩ := ih _ (by omega) ht rfl
      exact ⟨r, k + 1, u, .code hcode hstep hrun, hu, by omega, by omega⟩
    · have hread := read_of_not_ended h.begun hended hcode
      obtain ⟨t, rest, hstep, ht, hreads, hcodes⟩ := h.read_step hread
      obtain ⟨r, k, u, hrun, hu, hr, hk⟩ := ih _ (by omega) ht rfl
      exact ⟨r + 1, k, u, .read hread hstep hrun, hu, by omega, by omega⟩

end Sys2Proof.Machine
end

section
/-! The statement of 42_decode_loop.md about a run's length. -/

namespace Sys2Proof

open Sys2Proof.Machine Sys2Proof.Safety

/-- Settles O54: the run ends within the reads and codes that are due at READ0. -/
theorem everyRunEndsWithinItsBound : Obligations.EveryRunEndsWithinItsBound := by
  intro s bytes hinv hst hhost
  have hacc := account_of_started hinv hst hhost
  obtain ⟨r, c, t, hrun, ht, hr, hc⟩ := OnRun.ends ⟨hinv, by simp [hst], .inr hacc⟩
  have hcodes : codesDue s bytes.length = codesOfLength bytes.length := (Nat.zero_add _).symm.trans hacc.due
  exact ⟨r, c, t, hrun, ht, by simpa only [readsDue, hst] using hr, (hc.trans hcodes.le).trans (codesOfLength_le _)⟩

end Sys2Proof
end

section
/-! What a command leaves of a code step it cuts, what the registers read, field by field, and which offset a host's
access acts on. -/

namespace Sys2Proof.Machine

open Sys2Proof.Safety

/-! ### SRST in a code step -/

/-- Bytes that a reset may leave with the host beside those it has: none, or some next bytes of the entry of the code
step's own code (R172). -/
def CutOf (s : State) (p : List Byte) : Prop :=
  p = [] ∨ ∃ c e, CodeOfStep s c ∧ c.toNat < s.size.toNat ∧ dictRead s.dict c.toNat = some e ∧ p <+: e.drop s.sent

theorem CutOf.eq_nil_outside_code_step {s : State} {p : List Byte} (h : CutOf s p) (hst : ¬ InCodeStep s) : p = [] :=
  h.resolve_right fun ⟨_, _, hcode, _⟩ => hst hcode.inCodeStep

theorem CutOf.isPrefix_of_entry {s : State} {p : List Byte} {c : Code} {e : Entry} (h : CutOf s p)
    (hcode : CodeOfStep s c) (hr : dictRead s.dict c.toNat = some e) : p <+: e.drop s.sent := by
  obtain rfl | ⟨d, f, hd, -, hf, hp⟩ := h
  · exact List.nil_prefix
  · obtain rfl := hcode.unique hd
    obtain rfl := Option.some.inj (hr.symm.trans hf)
    exact hp

theorem CutOf.eq_nil_of_unpopulated {s : State} {p : List Byte} {c : Code} (h : CutOf s p)
    (hcode : CodeOfStep s c) (hc : s.size.toNat ≤ c.toNat) : p = [] := by
  refine h.resolve_right fun ⟨d, _, hd, hlt, _⟩ => ?_
  obtain rfl := hcode.unique hd
  exact Nat.not_lt.2 hc hlt

theorem cutOutput_frame (s : State) :
    cutOutput s = { s with out := (cutOutput s).out, room := (cutOutput s).room, draws := (cutOutput s).draws } := by
  obtain ⟨-, hcut⟩ | ⟨e, k, -, -, hcut⟩ := cutOutput_cases s
  · rw [hcut]
  · rw [hcut]
    rfl

/-- The bytes that a cut appends to the output are such bytes. -/
theorem cutOf_of_cutOutput_out {s : State} {p : List Byte} (h : (cutOutput s).out = s.out ++ p) : CutOf s p := by
  obtain ⟨-, hcut⟩ | ⟨e, k, he, -, hcut⟩ := cutOutput_cases s <;> rw [hcut] at h
  · exact .inl (List.self_eq_append_right.1 h)
  · obtain ⟨c, hcode, hc, hr, -⟩ := entryInProgress_some he
    obtain rfl := List.append_cancel_left h
    exact .inr ⟨c, e, hcode, hc, hr, List.take_prefix _ _⟩

/-- A cut changes the output and what the host accepts, by the same bytes, and the free values used only (R63, R172). -/
theorem cutOutput_eq (s : State) : ∃ (p : List Byte) (d : Nat),
    cutOutput s = { s with out := s.out ++ p, room := s.room.map (· - p.length), draws := d } ∧
    (∀ k, s.room = some k → p.length ≤ k) ∧ CutOf s p := by
  obtain ⟨p, hout, hroom, hp⟩ := resetEngine_outAccepted s
  refine ⟨p, (cutOutput s).draws, ?_, hp, cutOf_of_cutOutput_out hout⟩
  rw [← hout, ← hroom]
  exact cutOutput_frame s

/-! ### The fields of STATUS and DICT_SIZE -/

/-- STATUS bit by bit (R35). -/
theorem getLsbD_statusFields (state errCode : BitVec 3) (busy done err : Bool) (i : Nat) :
    (statusFields state busy done err errCode).getLsbD i =
      if i < 3 then state.getLsbD i
      else if i = 3 then busy
      else if i = 4 then done
      else if i = 5 then err
      else if i < 8 then false
      else errCode.getLsbD (i - 8) := by
  have hstate : 3 ≤ i → state.getLsbD i = false := BitVec.getLsbD_of_ge _ _
  have herr : 32 ≤ i → errCode.getLsbD (i - 8) = false := fun h => BitVec.getLsbD_of_ge _ _ (by omega)
  simp only [statusFields, BitVec.getLsbD_or, BitVec.getLsbD_shiftLeft, BitVec.getLsbD_setWidth, BitVec.getLsbD_ofBool]
  grind

/-! STATUS field by field (R35): each is read off its bits. -/

section
variable (state errCode : BitVec 3) (busy done err : Bool)

theorem statusFields_state : (statusFields state busy done err errCode).extractLsb' 0 3 = state :=
  BitVec.eq_of_getLsbD_eq fun i hi => by simp [getLsbD_statusFields, hi]

theorem statusFields_busy : (statusFields state busy done err errCode).getLsbD 3 = busy := getLsbD_statusFields ..

theorem statusFields_done : (statusFields state busy done err errCode).getLsbD 4 = done := getLsbD_statusFields ..

theorem statusFields_err : (statusFields state busy done err errCode).getLsbD 5 = err := getLsbD_statusFields ..

theorem statusFields_errCode : (statusFields state busy done err errCode).extractLsb' 8 3 = errCode :=
  BitVec.eq_of_getLsbD_eq fun i hi => by
    simp (disch := omega) only [BitVec.getLsbD_extractLsb', getLsbD_statusFields, if_neg, hi, decide_true,
      Bool.true_and, Nat.add_sub_cancel_left]

theorem statusFields_reserved_low : (statusFields state busy done err errCode).extractLsb' 6 2 = 0 :=
  BitVec.eq_of_getLsbD_eq fun i hi => by
    simp (disch := omega) only [BitVec.getLsbD_extractLsb', getLsbD_statusFields, if_neg, if_pos, Bool.and_false,
      BitVec.ofNat_eq_ofNat, BitVec.getLsbD_zero]

theorem statusFields_reserved_high : (statusFields state busy done err errCode).extractLsb' 11 21 = 0 :=
  BitVec.eq_of_getLsbD_eq fun i hi => by
    simp (disch := omega) only [BitVec.getLsbD_extractLsb', getLsbD_statusFields, if_neg, BitVec.getLsbD_of_ge,
      Bool.and_false, BitVec.ofNat_eq_ofNat, BitVec.getLsbD_zero]

end

/-- A word that holds a 13-bit size has it in bits 12:0 and 0 above (R36). -/
theorem setWidth_size_fields (size : BitVec 13) :
    (size.setWidth 32).extractLsb' 0 13 = size ∧ (size.setWidth 32).extractLsb' 13 19 = 0#19 := by
  constructor
  · refine BitVec.eq_of_getLsbD_eq fun i hi => ?_
    have h32 : i < 32 := by omega
    simp [hi, h32]
  · exact BitVec.eq_of_getLsbD_eq fun i hi => by simp

/-! ### The offset of an access, and what a read returns -/

/-- A whole aligned word acts on its offset (R64). -/
theorem accessOffset_csr_word {off : Nat} (h : off % 4 = 0) : accessOffset (.csr off) 4 = some off :=
  if_pos ⟨rfl, h⟩

/-- An access acts on no offset but its own. -/
theorem accessOffset_csr_ne {off x : Nat} (h : off ≠ x) (width : Nat) : accessOffset (.csr off) width ≠ some x := by
  show (if width = 4 ∧ off % 4 = 0 then some off else none) ≠ some x
  split
  · exact fun heq => h (Option.some.inj heq)
  · exact (Option.some_ne_none x).symm

/-- A host's read of an aligned word appends the register's word (R174, R175). -/
theorem step_readWord {s : State} {off : Nat} {rest : List Turn} (hoff : off % 4 = 0)
    (h : s.turns = .host (.read (.csr off) 4) :: rest) :
    step s = .next { s with
      turns := rest, readLog := s.readLog ++ [regRead off s], draws := drawsAfterRead off s } := by
  rw [step_hostRead h, hostRead, accessOffset_csr_word hoff]
  rfl

theorem regRead_of_not_busy {s : State} (h : s.st.busy = false) (off : Nat) : regRead off s = regWord off s := by
  rw [regRead, h]
  rfl

theorem drawsAfterRead_of_not_busy {s : State} (h : s.st.busy = false) (off : Nat) : drawsAfterRead off s = s.draws := by
  rw [drawsAfterRead, h]
  rfl

/-- Offsets from 0x20 on map no register (R42). -/
theorem regWord_unmapped {off : Nat} (h : 0x20 ≤ off) (s : State) : regWord off s = 0 := by
  simp (disch := omega) only [regWord, if_neg]

/-- CTRL and the unmapped offsets read 0 whatever the engine does (R34, R42). -/
theorem regRead_eq_zero {off : Nat} (h : off = 0x00 ∨ 0x20 ≤ off) (s : State) : regRead off s = 0 := by
  have hexact : inexactWhileBusy off = false := by
    simp only [inexactWhileBusy, Bool.and_eq_false_iff, decide_eq_false_iff_not]
    omega
  rw [regRead, hexact, Bool.and_false, if_neg Bool.false_ne_true]
  obtain rfl | h := h
  · rfl
  · exact regWord_unmapped h s

/-- While BUSY a STATUS read shows one of the four busy states (R174). -/
theorem regRead_status_of_busy {s : State} (h : s.st.busy = true) :
    regRead 0x04 s = statusFields ((Config.busyState s.draws).setWidth 3 + 1) true false false s.errCode := by
  rw [regRead, h]
  rfl

theorem busyState_bits_range (b : BitVec 2) :
    1 ≤ (b.setWidth 3 + 1 : BitVec 3).toNat ∧ (b.setWidth 3 + 1 : BitVec 3).toNat ≤ 4 := by
  revert b
  decide

/-! ### START and the busy states -/

theorem startCommand_of_not_busy {s : State} (h : s.st.busy = false) : startCommand s = startRun s := by
  rw [startCommand, h, if_neg Bool.false_ne_true]

/-- The busy states (R32). -/
theorem busy_iff (x : Ctrl) : x.busy = true ↔ x = .read0 ∨ x = .read1 ∨ x = .code1 ∨ x = .code2 := by
  cases x <;> decide

end Sys2Proof.Machine
end

section
/-! The statements of 43_control.md. -/

namespace Sys2Proof

open Sys2Proof.Machine Sys2Proof.Safety

/-- Settles O2: SRST is the cut of the code step in progress and then the reset values. -/
theorem srstResetsTheEngineAndKeepsTheHost : Obligations.SrstResetsTheEngineAndKeepsTheHost := by
  intro ig b s
  obtain ⟨p, d, hcut, hroom, hp⟩ := cutOutput_eq s
  have hexec : exec (.cmdSrst ig b) s = .next (engineReset (cutOutput s)) := rfl
  refine ⟨p, d, ?_, hroom, hp.eq_nil_outside_code_step, fun e hst => hp.isPrefix_of_entry (.inl ⟨hst, rfl⟩),
    fun e hst => hp.isPrefix_of_entry (.inr ⟨hst, rfl⟩), fun hst => hp.eq_nil_of_unpopulated (.inl ⟨hst, rfl⟩),
    fun hst => hp.eq_nil_of_unpopulated (.inr ⟨hst, rfl⟩)⟩
  rw [hexec, hcut]
  rfl

/-- Settles O40: when BUSY = 0 a read returns the word of the current state, register by register. -/
theorem registerReadsWhenNotBusy : Obligations.RegisterReadsWhenNotBusy := by
  intro s rest off hbusy hoff hturn
  refine ⟨regWord off s, ?_, ?_, ?_, ?_, ?_, ?_, ?_, ?_, ?_, fun h => regWord_unmapped h s⟩
  · rw [step_readWord hoff hturn, regRead_of_not_busy hbusy, drawsAfterRead_of_not_busy hbusy]
  · rintro rfl; rfl
  · rintro rfl
    exact ⟨statusFields_state .., (statusFields_busy ..).trans hbusy, statusFields_done .., statusFields_err ..,
      statusFields_reserved_low .., statusFields_errCode .., statusFields_reserved_high ..⟩
  · rintro rfl; exact setWidth_size_fields s.size
  all_goals rintro rfl; rfl

/-- Settles O41: STATUS is packed from a busy state, and CTRL and the unmapped offsets have no free value. -/
theorem registerReadsWhileBusy : Obligations.RegisterReadsWhileBusy := by
  intro s rest off hbusy hoff hturn
  refine ⟨regRead off s, drawsAfterRead off s, step_readWord hoff hturn, ?_, fun h => regRead_eq_zero h s⟩
  rintro rfl
  rw [regRead_status_of_busy hbusy, statusFields_state]
  exact ⟨statusFields_busy .., statusFields_done .., statusFields_err .., busyState_bits_range _⟩

/-- Settles O4: START is a run's start where the engine is not busy, and nothing where it is. -/
theorem startBeginsARunUnlessBusy : Obligations.StartBeginsARunUnlessBusy := by
  intro ig s
  have hexec : exec (.cmdStart ig) s = .next (startCommand s) := rfl
  refine ⟨fun hst => ?_, fun hst => ?_⟩
  · rw [hexec, startCommand_of_not_busy ((not_busy_iff s.st).2 hst)]
    rfl
  · rw [hexec, startCommand_of_busy ((busy_iff s.st).2 hst)]

/-- Settles O5: the empty command's arm of exec. -/
theorem cmdNoneChangesNothing : Obligations.CmdNoneChangesNothing := fun _ _ => rfl

/-- Settles O6, by the two bits of the command. -/
theorem ctrlValueSelectsTheCommand : Obligations.CtrlValueSelectsTheCommand := by
  intro s v rest a ha hturn
  have hstep : step s = exec (ctrlInstr v) { s with turns := rest } := by rw [step_hostWrite hturn, if_pos ha]
  rw [hstep, exec_ctrlInstr]
  refine ⟨fun h1 => ?_, fun h1 h0 => ?_, fun h1 h0 => ?_⟩
  · rw [h1]; rfl
  · rw [h1, h0]; rfl
  · rw [h1, h0]; rfl

/-- Settles O43: a command is written at offset 0 only. -/
theorem writesElsewhereChangeNothing : Obligations.WritesElsewhereChangeNothing := by
  intro s rest off width v hoff hturn
  rw [step_hostWrite hturn, if_neg (accessOffset_csr_ne hoff width)]

end Sys2Proof
end

section
/-! The errors of the engine: which step enters ERROR and what it records, the code whose update does not fit, and the
window of which only the first code is looked at. -/

namespace Sys2Proof.Machine

open Sys2Proof.Safety

/-! ### CapacityFault -/

/-- An update of an entry longer than MAX_ENTRY_LEN less one does not fit (R146). -/
theorem not_updateFits_of_bound {e : Entry} {m : Nat} (hm : Config.maxEntryLen = some m) (h : m < e.length + 1) :
    ¬ UpdateFits e := fun hf => absurd (hf m hm) (Nat.not_le.2 h)

/-- The update of a literal's entry fits under every bound, so a code whose update does not fit is dynamic (R6, R26). -/
theorem dynamic_of_not_updateFits {d : Dict} {k : Nat} {e : Entry} (hr : dictRead d k = some e)
    (hf : ¬ UpdateFits e) : 256 ≤ k := by
  by_contra hlit
  rw [dictRead_literal d k (by omega)] at hr
  cases hr
  exact hf (updateFits_of_short (by simp))

/-- A code whose update does not fit takes the error exit before its first byte (R146, R203). -/
theorem codeStep_overlong {c : Code} {e : Entry} {s : State} (hst : s.st = .code1 ∨ (s.st = .code2 ∧ s.n ≠ 0#3))
    (hn : s.n.toNat ≤ 3) (hc : c.toNat < s.size.toNat) (hr : dictRead s.dict c.toNat = some e)
    (hf : ¬ UpdateFits e) : codeStep c s = .next (raiseError .capacityFault (c.setWidth 16) s) := by
  have hfits : ¬ entryFits e.length = true := fun h => hf ((entryFits_iff e).1 h)
  have hp : processCode c s = .ended (raiseError .capacityFault (c.setWidth 16) s) := by
    rw [processCode, if_neg (Nat.not_le.2 hc), hr]
    exact if_neg hfits
  rw [codeStep_eq c hst hn, hp]
  rfl

/-! ### The window of which only the first code is looked at -/

/-- A window whose first code's step does not go on to CODE2 is that step (R121, R206). -/
theorem windowStep_first {c1 : Code} {s : State} (hst : s.st = .code1)
    (h : ∀ t, codeStep c1 s = .next t → t.st ≠ .code2) (c2 : Code) : windowStep c1 c2 s = codeStep c1 s := by
  cases h1 : codeStep c1 s with
  | next t => simp only [windowStep, hst, h1, if_neg (h t h1)]
  | fault r => simp only [windowStep, hst, h1]
  | refused r => simp only [windowStep, hst, h1]

/-- A code that passes names an entry whose update fits, and does not wait for the host (R146). -/
theorem processCode_passed_checks {c : Code} {s t : State} (h : processCode c s = .passed t) :
    c.toNat < s.size.toNat ∧
      ∀ e, dictRead s.dict c.toNat = some e → UpdateFits e ∧ ∀ k, ¬ WaitsAfter s e k := by
  obtain ⟨p, -, hc, hr, hf, hall, -⟩ := processCode_passed h
  refine ⟨hc, fun e he => ?_⟩
  obtain rfl : p = e := Option.some.inj (hr.symm.trans he)
  refine ⟨hf, fun k hw => ?_⟩
  rw [emit_waits hw] at hall
  exact absurd hall (Nat.not_le.2 hw.2)

/-- The step CODE1 goes on to CODE2 only with a trailing count above 0 and a code that names an entry, whose update
fits and whose bytes the host accepts (R121, R144, R146). -/
theorem second_checks {c : Code} {s t : State} (hst : s.st = .code1) (h : codeStep c s = .next t)
    (ht : t.st = .code2) : s.n ≠ 0#3 ∧ c.toNat < s.size.toNat ∧
      ∀ e, dictRead s.dict c.toNat = some e → UpdateFits e ∧ ∀ k, ¬ WaitsAfter s e k := by
  obtain ⟨-, u, hp, rfl⟩ := passed_of_second hst h ht
  refine ⟨fun hn => ?_, processCode_passed_checks hp⟩
  rw [afterCode_st, if_pos hst, if_pos hn] at ht
  cases ht

/-! ### The step that enters ERROR -/

/-- The error recorded in `t` is one of the step that the controller of `s` runs: InvalidFraming of a read step,
InvalidCode or CapacityFault of a code step (R201 to R203). -/
def ErrorOfStep (s t : State) : Prop :=
  ((s.st = .read0 ∨ s.st = .read1) ∧ t.errCode = 2) ∨ (InCodeStep s ∧ (t.errCode = 1 ∨ t.errCode = 3))

theorem read0Step_error {k : BitVec 3} {l0 l1 l2 : Byte} {s t : State} (h : read0Step k l0 l1 l2 s = .next t)
    (ht : t.st = .error) : t.errCode = 2 := by
  obtain ⟨-, ⟨-, rfl⟩ | ⟨-, rfl⟩ | ⟨-, -, rfl⟩⟩ := read0Step_next h
  · rfl
  · cases ht
  · cases ht

theorem read1Step_error {k : BitVec 3} {l0 l1 l2 : Byte} {s t : State} (h : read1Step k l0 l1 l2 s = .next t)
    (ht : t.st = .error) : t.errCode = 2 := by
  obtain ⟨-, ⟨-, rfl⟩ | ⟨-, rfl⟩⟩ := read1Step_next h
  · rfl
  · cases ht

/-- A step whose code passes does not enter ERROR (R144, R145). -/
theorem afterCode_ne_error (s u : State) : (afterCode s u).st ≠ .error := by
  obtain h | h | ⟨h, -⟩ := afterCode_next s u <;> simp [h]

/-- A code step with a legal trailing count enters ERROR by a check of ProcessCode only (R146). -/
theorem codeStep_error {c : Code} {s t : State} (hn : s.n.toNat ≤ 3) (h : codeStep c s = .next t)
    (ht : t.st = .error) : t.errCode = 1 ∨ t.errCode = 3 := by
  obtain ⟨hst, ⟨hbad, -⟩ | ⟨-, -, hp | ⟨u, -, rfl⟩⟩⟩ := codeStep_next h
  · exact absurd hn (by omega)
  · obtain ⟨-, rfl⟩ | ⟨e, -, -, -, rfl⟩ | ⟨e, -, -, -, -, rfl⟩ := processCode_ended hp
    · exact .inl rfl
    · exact .inr rfl
    · rw [emit_st] at ht
      simp [ht] at hst
  · exact absurd ht (afterCode_ne_error s u)

theorem hostAccess_st (op : HostOp) (s : State) : (hostAccess op s).st = s.st ∨ (hostAccess op s).st = .idle := by
  cases op with
  | read a width =>
    obtain ⟨v, d, hread⟩ := hostRead_eq a width s
    exact .inl (by rw [hostAccess, hread])
  | write a width v => exact .inl rfl
  | reset => exact .inr rfl
  | offer x => exact .inl rfl
  | accept x => exact .inl rfl

/-- A turn that enters ERROR from a state of the invariant runs a read step or a code step, and the error is of that
step. -/
theorem Runs.errorOfStep {s t : State} {o : Host.Outcome State Fault Refusal} (hr : Runs s o) (h : Inv s)
    (ho : o = .next t) (hs : s.st ≠ .error) (ht : t.st = .error) : ErrorOfStep s t := by
  cases hr with
  | wait =>
    cases ho
    exact absurd ht hs
  | read0 a u hst => exact .inl ⟨.inl hst, read0Step_error ho ht⟩
  | read1 a u hst => exact .inl ⟨.inr hst, read1Step_error ho ht⟩
  | lone a u hst => exact .inl ⟨.inr hst, read1Step_error ho ht⟩
  | code1 hst => exact .inr ⟨.inl hst, codeStep_error h.n_legal ho ht⟩
  | code2 hst => exact .inr ⟨.inr hst, codeStep_error h.n_legal ho ht⟩
  | window hst =>
    refine .inr ⟨.inl hst, ?_⟩
    obtain ⟨-, u, h1, ⟨-, rfl⟩ | ⟨-, h2⟩⟩ := windowStep_next ho
    · exact codeStep_error h.n_legal h1 ht
    · exact codeStep_error (codeStep_inv h (.inl ⟨hst, rfl⟩) h1).n_legal h2 ht
  | tail hst =>
    obtain ⟨-, -, h1⟩ := tailStep_next ho
    exact .inr ⟨.inl hst, codeStep_error h.n_legal h1 ht⟩
  | access op =>
    cases ho
    obtain hkept | hidle := hostAccess_st op s
    · exact absurd (hkept.symm.trans ht) hs
    · simp [hidle] at ht
  | ctrl v =>
    obtain hkept | ⟨hidle, -⟩ | ⟨hread, -⟩ := ctrlInstr_st ho
    · exact absurd (hkept.symm.trans ht) hs
    · simp [hidle] at ht
    · simp [hread] at ht

/-- No turn of the host enters ERROR (R170 to R173, R230). -/
theorem HostMoved.error_kept {s t : State} (h : HostMoved s t) (ht : t.st = .error) : s.st = .error := by
  cases h with
  | kept h => exact h.symm.trans ht
  | reset h => simp [h] at ht
  | srst h => simp [h] at ht
  | start h => simp [h] at ht

end Sys2Proof.Machine
end

section
/-! The statements of 60_exceptions.md. -/

namespace Sys2Proof

open Sys2Proof.Machine Sys2Proof.Safety

/-- Settles O22: the check of the bound comes before the emission, and a literal's entry never fails it. -/
theorem capacityFaultBeforeAnyEffect : Obligations.CapacityFaultBeforeAnyEffect := by
  intro c e m s hinv hst hc hr hm hlong
  have hf : ¬ UpdateFits e := not_updateFits_of_bound hm hlong
  refine ⟨dynamic_of_not_updateFits hr hf, fun i hi => ?_⟩
  rw [exec_populated s (.inr hi), codeStep_overlong (codeStep_enabled hinv hst) hinv.n_legal hc hr hf,
    raiseError_eq (by decide)]
  rfl

/-- Settles O26: in each of the cases code1's step does not go on to CODE2. -/
theorem pack3LooksAtCode2OnlyAfterCode1Passes : Obligations.Pack3LooksAtCode2OnlyAfterCode1Passes := by
  intro c1 c2 c2' s hst hcase
  have hstays : ∀ t, codeStep c1 s = .next t → t.st ≠ .code2 := by
    intro t h ht
    obtain ⟨hn, hc, hentry⟩ := second_checks hst h ht
    obtain h0 | hbad | ⟨e, hr, hf | ⟨k, hw⟩⟩ := hcase
    · exact hn h0
    · exact absurd hc (Nat.not_lt.2 hbad)
    · exact hf (hentry e hr).1
    · exact (hentry e hr).2 k hw
  have hfirst (d : Code) : exec (.pack3 c1 d) s = codeStep c1 s := windowStep_first hst hstays d
  rw [exec_classify, hfirst, hfirst]
  exact ⟨rfl, rfl⟩

/-- Settles O32: the host's turn never enters ERROR, and every other turn that does runs the step that raised the
error. -/
theorem errorIsEnteredOnlyFromABusyState : Obligations.ErrorIsEnteredOnlyFromABusyState := by
  intro s t hinv hstep hs ht
  refine ⟨fun op rest hturn => hs ((step_hostMoved hturn hstep).error_kept ht), ?_⟩
  have herr : ErrorOfStep s t := (step_runs s).errorOfStep (inv_takeTurn hinv) hstep hs ht
  rw [busy_iff]
  obtain ⟨hst, hcode⟩ | ⟨hst, hcode⟩ := herr
  · refine ⟨by tauto, .inr (.inl hcode), fun _ => hcode, fun h => ?_⟩
    obtain hst | hst := hst <;> simp [InCodeStep, hst] at h
  · refine ⟨.inr (.inr hst), by tauto, fun h => ?_, fun _ => hcode⟩
    obtain hst | hst := hst <;> simp [hst] at h

/-- Settles O31, by the arithmetic form of ERR_INFO and the code of each error. -/
theorem errorExitSetsThreeFields : Obligations.ErrorExitSetsThreeFields := by
  intro e arg s
  rw [raiseError, errInfoWord_eq]
  cases e <;> rfl

end Sys2Proof
end

section
/-! The platform's reset turn, and the answers of a host with a stream. -/

namespace Sys2Proof.Machine

/-! ### The platform's reset -/

/-- On the platform's turn the step is the reset of the engine (R230). -/
theorem step_hostReset {s : State} {rest : List Turn} (h : s.turns = .host .reset :: rest) :
    step s = .next (resetEngine { s with turns := rest }) := by
  rw [step_eq_outcomeOf, fetch_host h, takeTurn_of_cons h]
  rfl

theorem exec_cmdSrst (ig : BitVec 30) (b : Bool) (s : State) : exec (.cmdSrst ig b) s = .next (resetEngine s) := rfl

/-! ### The host's answer -/

/-- The lanes of a well-behaved host's answer are its next bytes, in order, and 0 past the last one (R233, R89). -/
theorem wellBehavedAnswer_lanes (bytes : List Byte) :
    (wellBehavedAnswer bytes).l0 = bytes.getD 0 0 ∧ (wellBehavedAnswer bytes).l1 = bytes.getD 1 0 ∧
      (wellBehavedAnswer bytes).l2 = bytes.getD 2 0 := by
  match bytes with
  | [] => exact ⟨rfl, rfl, rfl⟩
  | [_] => exact ⟨rfl, rfl, rfl⟩
  | [_, _] => exact ⟨rfl, rfl, rfl⟩
  | _ :: _ :: _ :: _ => exact ⟨rfl, rfl, rfl⟩

/-- With no explicit answer left the host answers from its stream and keeps the bytes past the third (R233). -/
theorem nextAnswer_stream {s : State} {bytes : List Byte} (ha : s.answers = []) (h : s.stream = some bytes) :
    nextAnswer s = some (wellBehavedAnswer bytes, { s with stream := some (bytes.drop 3) }) := by
  simp only [nextAnswer, ha, h]

/-- With neither an explicit answer nor a stream the host does not answer (R62). -/
theorem nextAnswer_none {s : State} (ha : s.answers = []) (h : s.stream = none) : nextAnswer s = none := by
  simp only [nextAnswer, ha, h]

end Sys2Proof.Machine
end

section
/-! The statements of 70_reset_and_hazards.md. -/

namespace Sys2Proof

open Sys2Proof.Machine

/-- Settles O17: the step at READ0 or READ1 is the read step with the stream's answer, and a wait without one. -/
theorem wellBehavedHostAnswersItsNextBytes : Obligations.WellBehavedHostAnswersItsNextBytes := by
  intro s bytes hturns hst hanswers
  refine ⟨fun hstream => ?_, fun hstream => ?_⟩
  · have hnext := nextAnswer_stream hanswers hstream
    obtain ⟨h0, h1, h2⟩ := wellBehavedAnswer_lanes bytes
    have hlane {i : Nat} {b : Byte} (h : bytes[i]? = some b) : bytes.getD i 0 = b := by
      rw [List.getD_eq_getElem?_getD, h, Option.getD_some]
    refine ⟨_, _, hnext, rfl, wellBehavedAnswer_k bytes, fun _ h => h0.trans (hlane h),
      fun _ h => h1.trans (hlane h), fun _ h => h2.trans (hlane h), fun hst => ?_, fun hst => ?_⟩
    · rw [step_of_no_turns hturns, outcomeOf_engine_read0 hst hnext, exec_read0Instr]
    · rw [step_of_no_turns hturns, outcomeOf_engine_read1 hst hnext, exec_read1Instr]
  · rw [step_of_no_turns hturns, engineFetch_unanswered hst (nextAnswer_none hanswers hstream), outcomeOf]

/-- Settles O3: the reset turn and SRST run the same reset of the engine. -/
theorem engineResetIsSrst : Obligations.EngineResetIsSrst := by
  intro ig b s rest hturn
  rw [step_hostReset hturn, exec_cmdSrst]

end Sys2Proof
end
